-- ==== Sys2Proof/Word.lean ====
section
/-! DEFINITION. The words the block moves (00_scope.md R10, R11): all values are unsigned. -/

namespace Sys2Proof

/-- A scalar register (R10, R21): 32 bits. -/
abbrev Word := BitVec 32

/-- An octet (R10): 8 bits, bit 7 the most significant (R11). -/
abbrev Byte := BitVec 8

/-- A septet (R10): a 7-bit character unit. -/
abbrev Septet := BitVec 7

end Sys2Proof
end

