-- ==== Sys2Proof/Syntax.lean ====
section
/-! DEFINITION. The instructions: one constructor for each mnemonic of spec/opcode_table.json. Rows that
share a mnemonic share a constructor, which carries the value that tells them apart. -/

namespace Sys2Proof

/-- The table's column "format", with the first octet of a TPDU split into its four fields (R95):
the place in an operation at which a word is dispatched on. -/
inductive Format where
  /-- The command register (R22, R90): 32 bits. -/
  | cmd
  /-- `fo[1:0]`, R96. -/
  | foMti
  /-- `fo[4:3]`, R205. -/
  | foVpf
  /-- `fo[6]`, R206. -/
  | foUdhi
  /-- `fo[5]`, R208. -/
  | foSrr
  /-- The data-coding scheme octet, R97. -/
  | gsmDcs
  /-- The type-of-address octet, R182. -/
  | gsmToa
  /-- The message format octet, R105. -/
  | cdmaFormat
  /-- The 16-bit header of a top-level parameter, R102, R103. -/
  | cdmaParam
  /-- The 16-bit header of a sub-parameter, R102, R104. -/
  | cdmaSubparam
  /-- The 5-bit user-data encoding tag, R106. -/
  | udEncoding
  /-- A septet, R63. -/
  | septet
  /-- The septet after an escape, R164. -/
  | septetAfterEsc
  deriving DecidableEq, Repr

/-- One constructor per mnemonic of spec/opcode_table.json. -/
inductive Instr where
  -- operations, R90
  | rcinit | wcinit | rdbits | wrbits | skipb | flush | rcseek | wcpatch
  | pack7 | unpack7
  | encaddr | decaddr | encts | dects
  | encgsm | decgsm | enccdma | deccdma
  /-- An unassigned `OP` value, R92. -/
  | illegal (op : Byte)
  -- first octet, R95, R96, R205, R206, R208
  | mtiDeliver | mtiSubmit | mti10 | mti11
  | vpfNone | vpfRelative | vpfEnhanced | vpfAbsolute
  | udhi | srr
  -- data-coding scheme, R97
  | dcsG07bit | dcsG08bit | dcsG0Ucs2 | dcsG0Reserved | dcsGF7bit | dcsGF8bit
  | dcsG01 | dcsG10 | dcsG1100 | dcsG1101 | dcsG1110
  -- type of address, R182
  | toaInternational
  -- CDMA message format octet, R105
  | fmtPointToPoint | fmtBroadcast | fmtAcknowledge
  | fmtUndefined (value : Byte)
  -- CDMA top-level parameters, R103; `len` is the header's length octet
  | pTeleservice (len : Byte) | pServcat (len : Byte) | pOrigaddr (len : Byte)
  | pOrigsub (len : Byte) | pDestaddr (len : Byte) | pDestsub (len : Byte)
  | pBearerreply (len : Byte) | pCause (len : Byte) | pBearerdata (len : Byte)
  | pUnknown (id len : Byte)
  -- CDMA sub-parameters, R104
  | sMsgid (len : Byte) | sUserdata (len : Byte) | sRespcode (len : Byte) | sMcts (len : Byte)
  | sVpabs (len : Byte) | sVprel (len : Byte) | sDdtabs (len : Byte) | sDdtrel (len : Byte)
  | sPriority (len : Byte) | sPrivacy (len : Byte) | sReplyopt (len : Byte)
  | sMsgcount (len : Byte) | sAlert (len : Byte) | sLanguage (len : Byte)
  | sCallback (len : Byte) | sDispmode (len : Byte) | sMultienc (len : Byte)
  | sDeposit (len : Byte) | sScpdata (len : Byte) | sScpresult (len : Byte)
  | sMsgstatus (len : Byte) | sTpfail (len : Byte) | sEvmn (len : Byte) | sEvmnack (len : Byte)
  | sUnknown (id len : Byte)
  -- CDMA user-data encodings, R106
  | udOctet | udEpm | udAscii7 | udIa5 | udUnicode | udShiftjis | udKorean | udLatinhebrew
  | udLatin | udGsm7 | udGsmdcs
  | udUndefined (tag : BitVec 5)
  -- the escape septet and the nine septets after it, R164, R166
  | esc | esc0C | esc5E | esc7B | esc7D | esc5C | esc5B | esc7E | esc5D | esc7C
  deriving DecidableEq, Repr

end Sys2Proof
end

