-- ==== Sys2Proof/Machine/Records.lean ====
section
/-! DEFINITION. The message records MSG.G and MSG.C (10_state.md R30 to R36), field by field.
Every field's default is the all-zero value, so that an empty structure literal is the "all-zero
record" of 44_cdma_decode.md R240. -/

namespace Sys2Proof.Machine

/-- MSG.G, the GsmSmsMessage record (R30). `addr`, `ts` and `data` are octet arrays; an index past
the list reads 0x00 (log 16). -/
structure GsmMsg where
  /-- 0 Deliver, 1 Submit, 2 CellBroadcast. -/
  kind : BitVec 2 := 0
  addr : List Byte := []
  addrLen : Byte := 0
  /-- 0 Text, 1 Binary, 2 Pdu, 3 Ucs2. -/
  format : BitVec 2 := 0
  ts : List Byte := []
  tsLen : Byte := 0
  data : List Byte := []
  dataLen : Byte := 0
  srr : BitVec 1 := 0
  deriving DecidableEq, Repr, Inhabited

/-- CdmaAddressParameter (R32). A 4-bit unit is held zero-extended; a unit past the list reads 0
(log 17). -/
structure CdmaAddress where
  digitMode : BitVec 1 := 0
  numberMode : BitVec 1 := 0
  numberType : BitVec 3 := 0
  numberPlan : BitVec 4 := 0
  fieldsNumber : Byte := 0
  chari : List Byte := []
  deriving DecidableEq, Repr, Inhabited

/-- CdmaSubaddress (R34). -/
structure CdmaSubaddress where
  type : BitVec 3 := 0
  odd : BitVec 1 := 0
  fieldsNumber : Byte := 0
  chari : List Byte := []
  deriving DecidableEq, Repr, Inhabited

/-- CdmaCauseCodes (R34). -/
structure CdmaCause where
  replySeq : BitVec 6 := 0
  errorClass : BitVec 2 := 0
  causeCode : Byte := 0
  deriving DecidableEq, Repr, Inhabited

/-- CdmaDate (R35): six raw octets. -/
structure CdmaDate where
  year : Byte := 0
  month : Byte := 0
  day : Byte := 0
  hours : Byte := 0
  minutes : Byte := 0
  seconds : Byte := 0
  deriving DecidableEq, Repr, Inhabited

/-- The messageIdentifier slot (R35). -/
structure CdmaMessageId where
  messageType : BitVec 4 := 0
  messageId : BitVec 16 := 0
  headerInd : BitVec 1 := 0
  deriving DecidableEq, Repr, Inhabited

/-- CdmaUserData (R36). Units of 7, 8 or 16 bits, held zero-extended. -/
structure CdmaUserData where
  encoding : BitVec 5 := 0
  messageType : Byte := 0
  fieldsNumber : Byte := 0
  chari : List (BitVec 16) := []
  deriving DecidableEq, Repr, Inhabited

/-- The replyOption slot (R35). -/
structure CdmaReplyOption where
  userAck : BitVec 1 := 0
  deliveryAck : BitVec 1 := 0
  readAck : BitVec 1 := 0
  report : BitVec 1 := 0
  deriving DecidableEq, Repr, Inhabited

/-- The callBackNumber slot (R35). -/
structure CdmaCallBack where
  digitMode : BitVec 1 := 0
  numberType : BitVec 3 := 0
  numberPlan : BitVec 4 := 0
  fieldsNumber : Byte := 0
  chari : List Byte := []
  deriving DecidableEq, Repr, Inhabited

/-- The messageStatus slot (R35). -/
structure CdmaMessageStatus where
  errorClass : BitVec 2 := 0
  statusCode : BitVec 6 := 0
  deriving DecidableEq, Repr, Inhabited

/-- CdmaBearerData (R35): bit i of the mask says whether sub-parameter i is present. -/
structure CdmaBearer where
  subParameterMask : BitVec 24 := 0
  messageIdentifier : CdmaMessageId := {}
  userData : CdmaUserData := {}
  userResponseCode : Byte := 0
  messageCenterTimeStamp : CdmaDate := {}
  validityPeriodAbsolute : CdmaDate := {}
  validityPeriodRelative : Byte := 0
  deferredDeliveryTimeAbsolute : CdmaDate := {}
  deferredDeliveryTimeRelative : Byte := 0
  priority : BitVec 2 := 0
  privacy : BitVec 2 := 0
  replyOption : CdmaReplyOption := {}
  messageCount : Byte := 0
  alertPriority : BitVec 2 := 0
  language : Byte := 0
  callBackNumber : CdmaCallBack := {}
  displayMode : BitVec 2 := 0
  depositIndex : BitVec 16 := 0
  messageStatus : CdmaMessageStatus := {}
  tpFailureCause : Byte := 0
  deriving DecidableEq, Repr, Inhabited

/-- MSG.C, the CdmaPdu record (R31): bit i of the mask says whether parameter i is present (R37). -/
structure CdmaPdu where
  format : Byte := 0
  parameterMask : BitVec 9 := 0
  teleserviceId : BitVec 16 := 0
  serviceCategory : BitVec 16 := 0
  origAddr : CdmaAddress := {}
  origSubaddr : CdmaSubaddress := {}
  destAddr : CdmaAddress := {}
  destSubaddr : CdmaSubaddress := {}
  bearerReplySeq : BitVec 6 := 0
  cause : CdmaCause := {}
  bearer : CdmaBearer := {}
  deriving DecidableEq, Repr, Inhabited

end Sys2Proof.Machine
end

