-- ==== Sys2Proof/Config.lean ====
section
/-! DEFINITION. The parameters of the model (00_scope.md R9, R38, R40), one record, and the free
values: opaque constants with no body, so that nothing can be proved of what they are. -/

namespace Sys2Proof

/-- The parameters of R9. "A model takes the parameters as a configuration record and must not bake
the defaults into a rule": every rule reads them from this record. The defaults are in
Machine/Defaults.lean. -/
structure Config where
  udOctetsMax : Nat
  textCharsMax : Nat
  gsmDataCap : Nat
  ibufCap : Nat
  obufCap : Nat
  pduCap : Nat
  cdmaPduCap : Nat
  addrDigitsMax : Nat
  addrStrCap : Nat
  tsStrCap : Nat
  /-- The sentinel string of DECTS, R185. -/
  tsUnknown : List Byte
  /-- The 7-bit placeholder for an unmapped 8-bit input: the entry A8TO7 holds for it (R161 (b)). -/
  npc7 : Byte
  /-- The placeholder of an unmapped 7-bit or escaped input. -/
  npc8 : Byte
  /-- A8TO7[0..255]: an entry of 128 or more needs the escape (R161 (c)). -/
  a8to7 : List Byte
  /-- A7TO8[0..255], indexed by septet. -/
  a7to8 : List Byte
  /-- EXT7TO8: pairs (septet after the escape, 8-bit code), R164. -/
  ext7to8 : List (Septet × Byte)
  cdmaAddrCap : Nat
  cdmaSubaddrCap : Nat
  cdmaUdCap : Nat
  ucs2DecodeEn : Bool
  deriving DecidableEq, Repr

/-- FREE VALUE (log 5): the text of TS_UNKNOWN, which the spec leaves OPEN (U8). -/
opaque Config.freeTsUnknown : List Byte

/-- FREE VALUE (log 6, log 7): octet `i` of OBUF where the spec says it is unspecified (U1, U7);
the first argument is the draw number State.free. -/
opaque Config.freeObuf : Nat → Nat → Byte

/-- FREE VALUE (log 6): OLEN after an operation that wrote no OLEN it may be relied on (U3). -/
opaque Config.freeOlen : Nat → Word

/-- FREE VALUE (log 6): RES0 in the same case (U3). -/
opaque Config.freeRes0 : Nat → Word

/-- FREE VALUE (log 6): RES1 in the same case (U3). -/
opaque Config.freeRes1 : Nat → Word

/-- FREE VALUE (log 6): MSG.G after a DECGSM that did not end OK (U2). -/
opaque Config.freeMsgG : Nat → Machine.GsmMsg

/-- FREE VALUE (log 6): MSG.C after a DECCDMA that did not end OK (U4). -/
opaque Config.freeMsgC : Nat → Machine.CdmaPdu

/-- FREE VALUE (log 7): octet `i` of MSG.G.addr past the string's NUL. -/
opaque Config.freeAddrTail : Nat → Nat → Byte

/-- FREE VALUE (log 7): octet `i` of MSG.G.ts past the string's NUL. -/
opaque Config.freeTsTail : Nat → Nat → Byte

/-- FREE VALUE (log 7): octet `i` of MSG.G.data at dataLen and above (U7). -/
opaque Config.freeDataTail : Nat → Nat → Byte

/-- FREE VALUE (log 16): character `i` of a string of MSG.G where its length field counts more
characters than its array holds. -/
opaque Config.freePastArray : Nat → Byte

end Sys2Proof
end

