-- ==== Sys2Proof/WellFormed.lean ====
section
/-! DEFINITION. Which instructions and which parameter records are well formed. -/

namespace Sys2Proof

/-- An `OP` value that R90 assigns to an operation. -/
def assignedOp (op : Byte) : Bool :=
  [0x01, 0x02, 0x03, 0x04, 0x05, 0x06, 0x07, 0x08, 0x10, 0x11, 0x20, 0x21, 0x22, 0x23,
   0x30, 0x31, 0x40, 0x41].contains op

/-- The value an instruction carries is one its row of the table admits: an illegal `OP` is not
assigned (R92); an undefined message format is above 2 (R105); an unknown parameter id is above 8
(R103); an unknown sub-parameter id is above 23 (R104, R271); an undefined encoding tag is above 10
(R106). Every other instruction is well formed. -/
def Instr.wf : Instr → Bool
  | .illegal op => !assignedOp op
  | .fmtUndefined v => decide (2 < v.toNat)
  | .pUnknown id _ => decide (8 < id.toNat)
  | .sUnknown id _ => decide (23 < id.toNat)
  | .udUndefined t => decide (10 < t.toNat)
  | _ => true

/-- What R9, D13 and R161 (a) require of a parameter record: PDU_CAP is at least 164; OBUF_CAP is at
least PDU_CAP and CDMA_PDU_CAP; MSG.G.data holds TEXT_CHARS_MAX characters; MSG.G.ts holds 20
characters and the NUL, and TS_UNKNOWN fits it; the two alphabet tables have 256 entries. The rest is the model's
choice (log 28): CDMA_PDU_CAP is at least 1; MSG.G.data holds UD_OCTETS_MAX octets too; its 8-bit length, the
8-bit lengths of the strings and the digit count octet can count what they count (255 and 256); an address array
has room for its NUL; a string with its NUL fits OBUF. -/
def Config.wf (c : Config) : Bool :=
  decide (164 ≤ c.pduCap) && decide (c.pduCap ≤ c.obufCap) && decide (1 ≤ c.cdmaPduCap) &&
  decide (c.cdmaPduCap ≤ c.obufCap) && decide (c.textCharsMax ≤ c.gsmDataCap) &&
  decide (c.udOctetsMax ≤ c.gsmDataCap) && decide (c.gsmDataCap ≤ 255) &&
  decide (c.addrDigitsMax ≤ 255) && decide (1 ≤ c.addrStrCap) && decide (c.addrStrCap ≤ 256) &&
  decide (c.addrStrCap ≤ c.obufCap) && decide (21 ≤ c.tsStrCap) && decide (c.tsStrCap ≤ 256) &&
  decide (c.tsStrCap ≤ c.obufCap) && decide (c.tsUnknown.length + 1 ≤ c.tsStrCap) &&
  decide (c.a8to7.length = 256) && decide (c.a7to8.length = 256)

end Sys2Proof
end

