-- ==== Sys2Proof/Decode.lean ====
section
/-! DEFINITION. The decoder (total, rejecting by name), and after it the encoder, written from the
encoding tables of 30_encoding.md R90, R95 to R97, R102 to R106 and 41_alphabet_pack7.md R164. A word
is read at a Format: the place in an operation at which the block dispatches on it. -/

namespace Sys2Proof

/-- Why a word has no instruction. -/
inductive DecodeError where
  /-- CMD[31:8] is not 0 (R22, R92), or a word is wider than its format. -/
  | reservedBits
  /-- No row of the format matches: the header indicator or the status-report request is clear, the
  type of address is not international, the septet is plain or is none of the nine (R164). -/
  | noRow
  deriving DecidableEq, Repr

/-- The operation code (R90); every other value is illegal (R92). -/
def decodeOp (op : Byte) : Instr :=
  if op = 0x01 then .rcinit
  else if op = 0x02 then .wcinit
  else if op = 0x03 then .rdbits
  else if op = 0x04 then .wrbits
  else if op = 0x05 then .skipb
  else if op = 0x06 then .flush
  else if op = 0x07 then .rcseek
  else if op = 0x08 then .wcpatch
  else if op = 0x10 then .pack7
  else if op = 0x11 then .unpack7
  else if op = 0x20 then .encaddr
  else if op = 0x21 then .decaddr
  else if op = 0x22 then .encts
  else if op = 0x23 then .dects
  else if op = 0x30 then .encgsm
  else if op = 0x31 then .decgsm
  else if op = 0x40 then .enccdma
  else if op = 0x41 then .deccdma
  else .illegal op

/-- The message-type indicator `fo[1:0]` (R96). -/
def decodeMti (fo : Byte) : Instr :=
  if fo.extractLsb' 0 2 = 0 then .mtiDeliver
  else if fo.extractLsb' 0 2 = 1 then .mtiSubmit
  else if fo.extractLsb' 0 2 = 2 then .mti10
  else .mti11

/-- The validity-period format `fo[4:3]` (R95, R205). -/
def decodeVpf (fo : Byte) : Instr :=
  if fo.extractLsb' 3 2 = 0 then .vpfNone
  else if fo.extractLsb' 3 2 = 2 then .vpfRelative
  else if fo.extractLsb' 3 2 = 1 then .vpfEnhanced
  else .vpfAbsolute

/-- The data-coding scheme (R97): the table's patterns, in its order. -/
def decodeDcs (d : Byte) : Instr :=
  if d &&& 0xCC = 0x00 then .dcsG07bit
  else if d &&& 0xCC = 0x04 then .dcsG08bit
  else if d &&& 0xCC = 0x08 then .dcsG0Ucs2
  else if d &&& 0xCC = 0x0C then .dcsG0Reserved
  else if d &&& 0xF4 = 0xF0 then .dcsGF7bit
  else if d &&& 0xF4 = 0xF4 then .dcsGF8bit
  else if d &&& 0xC0 = 0x40 then .dcsG01
  else if d &&& 0xC0 = 0x80 then .dcsG10
  else if d &&& 0xF0 = 0xC0 then .dcsG1100
  else if d &&& 0xF0 = 0xD0 then .dcsG1101
  else .dcsG1110

/-- The message format octet (R105). -/
def decodeFormat (v : Byte) : Instr :=
  if v = 0 then .fmtPointToPoint
  else if v = 1 then .fmtBroadcast
  else if v = 2 then .fmtAcknowledge
  else .fmtUndefined v

/-- The identifier of a top-level parameter (R103). -/
def decodeParam (id len : Byte) : Instr :=
  if id = 0 then .pTeleservice len
  else if id = 1 then .pServcat len
  else if id = 2 then .pOrigaddr len
  else if id = 3 then .pOrigsub len
  else if id = 4 then .pDestaddr len
  else if id = 5 then .pDestsub len
  else if id = 6 then .pBearerreply len
  else if id = 7 then .pCause len
  else if id = 8 then .pBearerdata len
  else .pUnknown id len

/-- The identifier of a sub-parameter (R104). -/
def decodeSubparam (id len : Byte) : Instr :=
  if id = 0 then .sMsgid len
  else if id = 1 then .sUserdata len
  else if id = 2 then .sRespcode len
  else if id = 3 then .sMcts len
  else if id = 4 then .sVpabs len
  else if id = 5 then .sVprel len
  else if id = 6 then .sDdtabs len
  else if id = 7 then .sDdtrel len
  else if id = 8 then .sPriority len
  else if id = 9 then .sPrivacy len
  else if id = 10 then .sReplyopt len
  else if id = 11 then .sMsgcount len
  else if id = 12 then .sAlert len
  else if id = 13 then .sLanguage len
  else if id = 14 then .sCallback len
  else if id = 15 then .sDispmode len
  else if id = 16 then .sMultienc len
  else if id = 17 then .sDeposit len
  else if id = 18 then .sScpdata len
  else if id = 19 then .sScpresult len
  else if id = 20 then .sMsgstatus len
  else if id = 21 then .sTpfail len
  else if id = 22 then .sEvmn len
  else if id = 23 then .sEvmnack len
  else .sUnknown id len

/-- The user-data encoding tag (R106). -/
def decodeUdEncoding (t : BitVec 5) : Instr :=
  if t = 0 then .udOctet
  else if t = 1 then .udEpm
  else if t = 2 then .udAscii7
  else if t = 3 then .udIa5
  else if t = 4 then .udUnicode
  else if t = 5 then .udShiftjis
  else if t = 6 then .udKorean
  else if t = 7 then .udLatinhebrew
  else if t = 8 then .udLatin
  else if t = 9 then .udGsm7
  else if t = 10 then .udGsmdcs
  else .udUndefined t

/-- The septet after an escape (R164). -/
def decodeAfterEsc (s : Septet) : Except DecodeError Instr :=
  if s = 10 then .ok .esc0C
  else if s = 20 then .ok .esc5E
  else if s = 40 then .ok .esc7B
  else if s = 41 then .ok .esc7D
  else if s = 47 then .ok .esc5C
  else if s = 60 then .ok .esc5B
  else if s = 61 then .ok .esc7E
  else if s = 62 then .ok .esc5D
  else if s = 64 then .ok .esc7C
  else .error .noRow

/-- How many bits a word of the format has. -/
def Format.bits : Format → Nat
  | .cmd => 32
  | .cdmaParam => 16
  | .cdmaSubparam => 16
  | .udEncoding => 5
  | .septet => 7
  | .septetAfterEsc => 7
  | _ => 8

/-- THE DECODER: the instruction a word is, at the place it is met. Total; a word that is none is
rejected by name. -/
def decodeAt (f : Format) (w : Word) : Except DecodeError Instr :=
  if 2 ^ f.bits ≤ w.toNat then .error .reservedBits
  else match f with
  | .cmd =>
    if w.extractLsb' 8 24 = 0 then .ok (decodeOp (w.extractLsb' 0 8)) else .error .reservedBits
  | .foMti => .ok (decodeMti (w.extractLsb' 0 8))
  | .foVpf => .ok (decodeVpf (w.extractLsb' 0 8))
  | .foUdhi => if w.getLsbD 6 then .ok .udhi else .error .noRow
  | .foSrr => if w.getLsbD 5 then .ok .srr else .error .noRow
  | .gsmDcs => .ok (decodeDcs (w.extractLsb' 0 8))
  | .gsmToa => if w.extractLsb' 4 3 = 1 then .ok .toaInternational else .error .noRow
  | .cdmaFormat => .ok (decodeFormat (w.extractLsb' 0 8))
  | .cdmaParam => .ok (decodeParam (w.extractLsb' 8 8) (w.extractLsb' 0 8))
  | .cdmaSubparam => .ok (decodeSubparam (w.extractLsb' 8 8) (w.extractLsb' 0 8))
  | .udEncoding => .ok (decodeUdEncoding (w.extractLsb' 0 5))
  | .septet => if w.extractLsb' 0 7 = 27 then .ok .esc else .error .noRow
  | .septetAfterEsc => decodeAfterEsc (w.extractLsb' 0 7)

/-- The format an instruction is written in. -/
def formatOf : Instr → Format
  | .rcinit | .wcinit | .rdbits | .wrbits | .skipb | .flush
  | .rcseek | .wcpatch | .pack7 | .unpack7 | .encaddr | .decaddr
  | .encts | .dects | .encgsm | .decgsm | .enccdma | .deccdma => .cmd
  | .illegal _ => .cmd
  | .mtiDeliver | .mtiSubmit | .mti10 | .mti11 => .foMti
  | .vpfNone | .vpfRelative | .vpfEnhanced | .vpfAbsolute => .foVpf
  | .udhi => .foUdhi
  | .srr => .foSrr
  | .dcsG07bit | .dcsG08bit | .dcsG0Ucs2 | .dcsG0Reserved | .dcsGF7bit | .dcsGF8bit
  | .dcsG01 | .dcsG10 | .dcsG1100 | .dcsG1101 | .dcsG1110 => .gsmDcs
  | .toaInternational => .gsmToa
  | .fmtPointToPoint | .fmtBroadcast | .fmtAcknowledge | .fmtUndefined _ => .cdmaFormat
  | .pTeleservice _ | .pServcat _ | .pOrigaddr _ | .pOrigsub _ | .pDestaddr _
  | .pDestsub _ | .pBearerreply _ | .pCause _ | .pBearerdata _ | .pUnknown _ _ => .cdmaParam
  | .sMsgid _ | .sUserdata _ | .sRespcode _ | .sMcts _ | .sVpabs _
  | .sVprel _ | .sDdtabs _ | .sDdtrel _ | .sPriority _ | .sPrivacy _
  | .sReplyopt _ | .sMsgcount _ | .sAlert _ | .sLanguage _ | .sCallback _
  | .sDispmode _ | .sMultienc _ | .sDeposit _ | .sScpdata _ | .sScpresult _
  | .sMsgstatus _ | .sTpfail _ | .sEvmn _ | .sEvmnack _ | .sUnknown _ _ => .cdmaSubparam
  | .udOctet | .udEpm | .udAscii7 | .udIa5 | .udUnicode
  | .udShiftjis | .udKorean | .udLatinhebrew | .udLatin | .udGsm7
  | .udGsmdcs | .udUndefined _ => .udEncoding
  | .esc => .septet
  | .esc0C | .esc5E | .esc7B | .esc7D | .esc5C
  | .esc5B | .esc7E | .esc5D | .esc7C => .septetAfterEsc

/-- A TLV header as a 16-bit pattern, identifier first (R102). -/
def headerWord (id len : Byte) : Word := (id ++ len).setWidth 32

/-- THE ENCODER: the word of a well-formed instruction, in its format, with every bit its row does not
examine at 0. -/
def encode : Instr → Word
  | .rcinit => 0x01
  | .wcinit => 0x02
  | .rdbits => 0x03
  | .wrbits => 0x04
  | .skipb => 0x05
  | .flush => 0x06
  | .rcseek => 0x07
  | .wcpatch => 0x08
  | .pack7 => 0x10
  | .unpack7 => 0x11
  | .encaddr => 0x20
  | .decaddr => 0x21
  | .encts => 0x22
  | .dects => 0x23
  | .encgsm => 0x30
  | .decgsm => 0x31
  | .enccdma => 0x40
  | .deccdma => 0x41
  | .illegal op => op.setWidth 32
  | .mtiDeliver => 0x00
  | .mtiSubmit => 0x01
  | .mti10 => 0x02
  | .mti11 => 0x03
  | .vpfNone => 0x00
  | .vpfRelative => 0x10
  | .vpfEnhanced => 0x08
  | .vpfAbsolute => 0x18
  | .udhi => 0x40
  | .srr => 0x20
  | .dcsG07bit => 0x00
  | .dcsG08bit => 0x04
  | .dcsG0Ucs2 => 0x08
  | .dcsG0Reserved => 0x0C
  | .dcsGF7bit => 0xF0
  | .dcsGF8bit => 0xF4
  | .dcsG01 => 0x40
  | .dcsG10 => 0x80
  | .dcsG1100 => 0xC0
  | .dcsG1101 => 0xD0
  | .dcsG1110 => 0xE0
  | .toaInternational => 0x10
  | .fmtPointToPoint => 0x00
  | .fmtBroadcast => 0x01
  | .fmtAcknowledge => 0x02
  | .fmtUndefined v => v.setWidth 32
  | .pTeleservice len => headerWord 0 len
  | .pServcat len => headerWord 1 len
  | .pOrigaddr len => headerWord 2 len
  | .pOrigsub len => headerWord 3 len
  | .pDestaddr len => headerWord 4 len
  | .pDestsub len => headerWord 5 len
  | .pBearerreply len => headerWord 6 len
  | .pCause len => headerWord 7 len
  | .pBearerdata len => headerWord 8 len
  | .pUnknown id len => headerWord id len
  | .sMsgid len => headerWord 0 len
  | .sUserdata len => headerWord 1 len
  | .sRespcode len => headerWord 2 len
  | .sMcts len => headerWord 3 len
  | .sVpabs len => headerWord 4 len
  | .sVprel len => headerWord 5 len
  | .sDdtabs len => headerWord 6 len
  | .sDdtrel len => headerWord 7 len
  | .sPriority len => headerWord 8 len
  | .sPrivacy len => headerWord 9 len
  | .sReplyopt len => headerWord 10 len
  | .sMsgcount len => headerWord 11 len
  | .sAlert len => headerWord 12 len
  | .sLanguage len => headerWord 13 len
  | .sCallback len => headerWord 14 len
  | .sDispmode len => headerWord 15 len
  | .sMultienc len => headerWord 16 len
  | .sDeposit len => headerWord 17 len
  | .sScpdata len => headerWord 18 len
  | .sScpresult len => headerWord 19 len
  | .sMsgstatus len => headerWord 20 len
  | .sTpfail len => headerWord 21 len
  | .sEvmn len => headerWord 22 len
  | .sEvmnack len => headerWord 23 len
  | .sUnknown id len => headerWord id len
  | .udOctet => 0
  | .udEpm => 1
  | .udAscii7 => 2
  | .udIa5 => 3
  | .udUnicode => 4
  | .udShiftjis => 5
  | .udKorean => 6
  | .udLatinhebrew => 7
  | .udLatin => 8
  | .udGsm7 => 9
  | .udGsmdcs => 10
  | .udUndefined t => t.setWidth 32
  | .esc => 27
  | .esc0C => 10
  | .esc5E => 20
  | .esc7B => 40
  | .esc7D => 41
  | .esc5C => 47
  | .esc5B => 60
  | .esc7E => 61
  | .esc5D => 62
  | .esc7C => 64

/-- A word of `nbits` bits on its own does not say which table it is of (log 12): an octet can be a
first octet, a DCS, a format octet, an encoding tag or a septet. This is the format the model reads it
in: the first row of the opcode table whose match is the octet, and the message type where no match
equals it; a header is a top-level parameter where its identifier is one (R103), else a sub-parameter
where the table names it (R104), else an unknown top-level parameter. -/
def formatOfWord (nbits w : Nat) : Option Format :=
  if nbits = 32 then some .cmd
  else if nbits = 16 then
    if 9 ≤ w / 256 ∧ w / 256 ≤ 23 then some .cdmaSubparam else some .cdmaParam
  else if nbits = 8 then
    if w = 0x08 ∨ w = 0x10 ∨ w = 0x18 then some .foVpf
    else if w = 0x20 then some .foSrr
    else if w = 0x40 then some .foUdhi
    else if w = 0x1B then some .septet
    else if w = 0x14 ∨ w = 0x28 ∨ w = 0x29 ∨ w = 0x2F ∨ w = 0x3C ∨ w = 0x3D ∨ w = 0x3E then
      some .septetAfterEsc
    else if w = 0x04 ∨ w = 0x0C ∨ w = 0x80 ∨ w = 0xC0 ∨ w = 0xD0 ∨ w = 0xE0 ∨ w = 0xF0 ∨ w = 0xF4 then
      some .gsmDcs
    else if 5 ≤ w ∧ w ≤ 11 then some .udEncoding
    else some .foMti
  else none

/-- The instruction the decoder reads from an instruction whose bits are `w`, numbered as the opcode
table numbers them. -/
def decodeTableWord (nbits w : Nat) : Option Instr :=
  if 2 ^ nbits ≤ w then none
  else match formatOfWord nbits w with
  | none => none
  | some f =>
    match decodeAt f (BitVec.ofNat 32 w) with
    | .ok i => some i
    | .error _ => none

end Sys2Proof
end

