-- ==== Sys2Proof/Machine/Defaults.lean ====
section
/-! DEFINITION. The default parameters (00_scope.md R9) and the default alphabet tables
(41_alphabet_pack7.md R162, R163, R164). PRESUMED by the spec: the table contents are from general
knowledge (log 19). -/

namespace Sys2Proof.Machine

/-- Default A7TO8, septets 0 to 127 (R162). -/
def defaultA7to8Low : List Byte :=
  [0x40, 0xA3, 0x24, 0xA5, 0xE8, 0xE9, 0xF9, 0xEC, 0xF2, 0xC7, 0x0A, 0xD8, 0xF8, 0x0D, 0xC5, 0xE5] ++
  [0x3F, 0x5F, 0x3F, 0x3F, 0x3F, 0x3F, 0x3F, 0x3F, 0x3F, 0x3F, 0x3F, 0x1B, 0xC6, 0xE6, 0xDF, 0xC9] ++
  [0x20, 0x21, 0x22, 0x23, 0xA4, 0x25, 0x26, 0x27, 0x28, 0x29, 0x2A, 0x2B, 0x2C, 0x2D, 0x2E, 0x2F] ++
  [0x30, 0x31, 0x32, 0x33, 0x34, 0x35, 0x36, 0x37, 0x38, 0x39, 0x3A, 0x3B, 0x3C, 0x3D, 0x3E, 0x3F] ++
  [0xA1, 0x41, 0x42, 0x43, 0x44, 0x45, 0x46, 0x47, 0x48, 0x49, 0x4A, 0x4B, 0x4C, 0x4D, 0x4E, 0x4F] ++
  [0x50, 0x51, 0x52, 0x53, 0x54, 0x55, 0x56, 0x57, 0x58, 0x59, 0x5A, 0xC4, 0xD6, 0xD1, 0xDC, 0xA7] ++
  [0xBF, 0x61, 0x62, 0x63, 0x64, 0x65, 0x66, 0x67, 0x68, 0x69, 0x6A, 0x6B, 0x6C, 0x6D, 0x6E, 0x6F] ++
  [0x70, 0x71, 0x72, 0x73, 0x74, 0x75, 0x76, 0x77, 0x78, 0x79, 0x7A, 0xE4, 0xF6, 0xF1, 0xFC, 0xE0]

/-- Default A7TO8 (R162): entries 128 to 255 hold NPC8. -/
def defaultA7to8 : List Byte := defaultA7to8Low ++ List.replicate 128 0x3F

/-- Default A8TO7 (R163), as the table prints it. -/
def defaultA8to7 : List Byte :=
  [63, 63, 63, 63, 63, 63, 63, 63, 63, 63, 10, 63, 138, 13, 63, 63] ++
  [63, 63, 63, 63, 63, 63, 63, 63, 63, 63, 63, 63, 63, 63, 63, 63] ++
  [32, 33, 34, 35, 2, 37, 38, 39, 40, 41, 42, 43, 44, 45, 46, 47] ++
  [48, 49, 50, 51, 52, 53, 54, 55, 56, 57, 58, 59, 60, 61, 62, 63] ++
  [0, 65, 66, 67, 68, 69, 70, 71, 72, 73, 74, 75, 76, 77, 78, 79] ++
  [80, 81, 82, 83, 84, 85, 86, 87, 88, 89, 90, 188, 175, 190, 148, 17] ++
  [63, 97, 98, 99, 100, 101, 102, 103, 104, 105, 106, 107, 108, 109, 110, 111] ++
  [112, 113, 114, 115, 116, 117, 118, 119, 120, 121, 122, 168, 192, 169, 189, 63] ++
  [63, 63, 63, 63, 63, 63, 63, 63, 63, 63, 63, 63, 63, 63, 63, 63] ++
  [63, 63, 63, 63, 63, 63, 63, 63, 63, 63, 63, 63, 63, 63, 63, 63] ++
  [63, 64, 63, 1, 36, 3, 63, 95, 63, 63, 63, 63, 63, 63, 63, 63] ++
  [63, 63, 63, 63, 63, 63, 63, 63, 63, 63, 63, 63, 63, 63, 63, 96] ++
  [63, 63, 63, 63, 91, 14, 28, 9, 63, 31, 63, 63, 63, 63, 63, 63] ++
  [63, 93, 63, 63, 63, 63, 92, 63, 11, 63, 63, 63, 94, 63, 63, 30] ++
  [127, 63, 63, 63, 123, 15, 29, 63, 4, 5, 63, 63, 7, 63, 63, 63] ++
  [63, 125, 8, 63, 63, 63, 124, 63, 12, 6, 63, 63, 126, 63, 63, 63]

/-- Default EXT7TO8, the nine extension characters (R164). -/
def defaultExt7to8 : List (Septet × Byte) :=
  [(10, 0x0C), (20, 0x5E), (40, 0x7B), (41, 0x7D), (47, 0x5C), (60, 0x5B), (61, 0x7E), (62, 0x5D),
   (64, 0x7C)]

/-- A character `0` to `9`. -/
def isDigit (b : Byte) : Bool := decide (0x30 ≤ b.toNat ∧ b.toNat ≤ 0x39)

/-- A string of the timestamp shape (R186): 20 characters, the five separators, the sign, and two decimal digits
in each of the seven fields. -/
def isTimestampShape (l : List Byte) : Bool :=
  decide (l.length = 20) && decide (l.getD 2 0 = 0x2F) && decide (l.getD 5 0 = 0x2F) &&
  decide (l.getD 8 0 = 0x2C) && decide (l.getD 11 0 = 0x3A) && decide (l.getD 14 0 = 0x3A) &&
  (decide (l.getD 17 0 = 0x2B) || decide (l.getD 17 0 = 0x2D)) &&
  [0, 3, 6, 9, 12, 15, 18].all (fun k => isDigit (l.getD k 0) && isDigit (l.getD (k + 1) 0))

/-- TS_UNKNOWN (D13, U8): OPEN, "a string of at most TS_STR_CAP - 1 characters that is not of the
timestamp shape". Any such string `l` is `admitTsUnknown l`; anything else gives the empty string (log 5). -/
def admitTsUnknown (l : List Byte) : List Byte :=
  if l.length ≤ 20 ∧ isTimestampShape l = false then l else []

/-- The parameter record with every default of R9; TS_UNKNOWN is the free constant (log 5). -/
def defaultConfig : Config where
  udOctetsMax := 140
  textCharsMax := 160
  gsmDataCap := 160
  ibufCap := 256
  obufCap := 256
  pduCap := 176
  cdmaPduCap := 255
  addrDigitsMax := 20
  addrStrCap := 22
  tsStrCap := 21
  tsUnknown := admitTsUnknown Config.freeTsUnknown
  npc7 := 63
  npc8 := 63
  a8to7 := defaultA8to7
  a7to8 := defaultA7to8
  ext7to8 := defaultExt7to8
  cdmaAddrCap := 50
  cdmaSubaddrCap := 50
  cdmaUdCap := 140
  ucs2DecodeEn := true

end Sys2Proof.Machine
end

