-- ==== Sys2Proof/Machine/State.lean ====
section
/-! DEFINITION. The machine's state: plain data, holding every piece of state 10_state.md gives the
block (R20 to R39), and the model's own fields `cfg`, `work`, `sel` and `free`. -/

namespace Sys2Proof.Machine

/-- The status kinds of R350, R353. -/
inductive Kind where
  | ok
  | unsupported
  | overflow
  | fault
  deriving DecidableEq, Repr

/-- An octet space (R60): the octets that are not 0x00, addresses strictly rising. An unlisted address
reads 0x00 (log 1). -/
abbrev Memory := List Host.Cell

/-- The read cursor RC over IBUF (R25): `pos` counts bits, `cap` octets. -/
structure ReadCursor where
  isOpen : Bool := false
  cap : Nat := 0
  pos : Nat := 0
  deriving DecidableEq, Repr

/-- The write cursor WC over OBUF (R26): `pos` counts bits, `cap` octets; `ovf` is sticky (R28). -/
structure WriteCursor where
  isOpen : Bool := false
  cap : Nat := 0
  pos : Nat := 0
  ovf : Bool := false
  deriving DecidableEq, Repr

/-- Which operation is being run, as `raise` needs to know it (R352): it decides which results a raise
leaves unspecified and which cursor it closes. `idle` stands for no operation, and for the primitive
operations that name no result. -/
inductive Running where
  | idle | wcinit | pack7 | unpack7 | encaddr | decaddr | encts | dects | encgsm | decgsm
  | enccdma | deccdma
  deriving DecidableEq, Repr

/-- The locals of DECGSM (R201): the running octet offset `pos` (R27), and what each step has found. -/
structure GsmWork where
  pos : Nat := 0
  /-- 0 Deliver, 1 Submit. -/
  kind : BitVec 2 := 0
  /-- 0 7-bit, 1 8-bit, 2 UCS-2, 3 reserved (R202). -/
  alpha : BitVec 2 := 0
  /-- UDL, once step 8 has read it. -/
  udl : Option Byte := none
  addr : List Byte := []
  ts : List Byte := []
  data : List Byte := []
  /-- 0 Text, 1 Binary, 3 Ucs2 (R30). -/
  format : BitVec 2 := 0
  srr : BitVec 1 := 0
  deriving DecidableEq, Repr

/-- The locals of a step that puts characters one by one (UNPACK7, R166; DECADDR, R181): the
characters so far, the destination's capacity, and whether the last septet was an escape. -/
structure TextWork where
  esc : Bool := false
  out : List Byte := []
  cap : Nat := 160
  deriving DecidableEq, Repr

/-- The locals of the operation being run (log 11): not visible to the host (R27), idle between
operations. -/
structure Work where
  op : Running := .idle
  gsm : GsmWork := {}
  text : TextWork := {}
  /-- DECCDMA's record M under construction (R240). -/
  m : CdmaPdu := {}
  /-- DECCDMA's bearer record B under construction (R251). -/
  b : CdmaBearer := {}
  /-- D_8's `end` (R251). -/
  bEnd : Nat := 0
  deriving DecidableEq, Repr

/-- The whole state. -/
structure State where
  /-- MODEL'S OWN: the parameters (R9, R38); no step changes them (R40, log 4). -/
  cfg : Config
  /-- CMD, R22. -/
  cmd : Word
  /-- STATUS, R23. -/
  status : Word
  /-- DIAG, R33. -/
  diag : Word
  /-- G[0], R21. -/
  ilen : Word
  /-- G[1], R21. -/
  arg0 : Word
  /-- G[2], R21. -/
  arg1 : Word
  /-- G[3], R21. -/
  arg2 : Word
  /-- G[4], R21. -/
  olen : Word
  /-- G[5], R21. -/
  res0 : Word
  /-- G[6], R21. -/
  res1 : Word
  /-- G[7], R21: no operation reads or writes it. -/
  g7 : Word
  /-- IBUF, R24. -/
  ibuf : Memory
  /-- OBUF, R24. -/
  obuf : Memory
  /-- RC, R25. -/
  rc : ReadCursor
  /-- WC, R26. -/
  wc : WriteCursor
  /-- MSG.G, R30. -/
  msgG : GsmMsg
  /-- MSG.C, R31. -/
  msgC : CdmaPdu
  /-- The locals of the operation being run, R27 (log 11). -/
  work : Work
  /-- MODEL'S OWN: a wire-format word that the next step dispatches on in place of CMD (log 11). -/
  sel : Option (Format × Word)
  /-- MODEL'S OWN: the number of the next draw of a free value (log 6). -/
  free : Nat
  deriving DecidableEq, Repr

/-- Why the machine stops. No operation of the block stops it (R350: "no error stops the block"). -/
inductive Fault where
  /-- Raised only by a host access (Machine/Port.lean) to one octet of IBUF or OBUF at or past the
  buffer's capacity: the array has no such octet (R24, R60; log 26). No operation and no boundary call raises it.
  Safe: nothing is claimed of such an access. -/
  | noSuchOctet (index : Nat)
  deriving DecidableEq, Repr

/-- Why a step has no meaning. -/
inductive Refusal where
  /-- Raised by exec's arm of an instruction that has no meaning yet (no arm at present). Safe. -/
  | notModelled (mnemonic : String)
  /-- Raised by step when the wire-format word placed in `sel` is no row of its format. The block
  never does so by itself: only withFetchWord places one (log 11). Safe. -/
  | noSuchElement
  /-- Raised only by the boundary calls (Machine/Port.lean): a protocol with no expansion, Cell-Broadcast
  included, "is refused by the host layer as unsupported" (R93). Safe. -/
  | unsupportedProtocol
  deriving DecidableEq, Repr

/-- Right after reset (R39): the registers 0, the cursors closed, the tables their constants. What R39
leaves unspecified is named: octets 0x00 (log 1), record fields 0 (log 2), cursor fields 0 (log 3). -/
def State.reset : State where
  cfg := defaultConfig
  cmd := 0
  status := 0
  diag := 0
  ilen := 0
  arg0 := 0
  arg1 := 0
  arg2 := 0
  olen := 0
  res0 := 0
  res1 := 0
  g7 := 0
  ibuf := []
  obuf := []
  rc := {}
  wc := {}
  msgG :=
    { addr := List.replicate defaultConfig.addrStrCap 0
      ts := List.replicate defaultConfig.tsStrCap 0
      data := List.replicate defaultConfig.gsmDataCap 0 }
  msgC := {}
  work := {}
  sel := none
  free := 0

end Sys2Proof.Machine
end

