-- ==== Sys2Proof/Machine/Ops.lean ====
section
/-! DEFINITION. The named operations over buffers, bit streams, cursors, status and results that every
meaning is built from: 20_memory.md R60 to R67, 40_bitbuffer.md R140 to R149, 60_exceptions.md R350 to
R359. -/

namespace Sys2Proof.Machine

/-- `ceil8(n)` (R13). -/
def ceil8 (n : Nat) : Nat := (n + 7) / 8

/-- `low_8(n)` (R13). -/
def low8 (n : Nat) : Byte := BitVec.ofNat 8 n

/-! ### Octet spaces (R60) -/

/-- `buf[a]`. What an unlisted octet reads as is said here and nowhere else: 0x00 (log 1). -/
def memRead : Memory → Nat → Byte
  | [], _ => 0
  | (a, b) :: m, x => if a = x then b else memRead m x

/-- Put an octet that is not 0x00 at its place in the rising order. -/
def memInsert : Memory → Nat → Byte → Memory
  | [], x, v => [(x, v)]
  | (a, b) :: m, x, v =>
    if x < a then (x, v) :: (a, b) :: m
    else if x = a then (x, v) :: m
    else (a, b) :: memInsert m x v

/-- `buf[x] <- v`. Writing 0x00 takes the entry out, so that equal contents are equal lists. -/
def memWrite (m : Memory) (x : Nat) (v : Byte) : Memory :=
  if v = 0 then m.filter (fun c => decide (c.1 ≠ x)) else memInsert m x v

/-- The canonical form: addresses strictly rising, no entry 0x00. -/
def Memory.wf : Memory → Bool
  | [] => true
  | (a, b) :: m => decide (b ≠ 0) && m.all (fun c => decide (a < c.1)) && Memory.wf m

/-- Every listed address is below the capacity. -/
def memBelow (cap : Nat) (m : Memory) : Bool := m.all (fun c => decide (c.1 < cap))

/-- `MemRead(buf, i, n)`: the octet at the lowest index first (R60). -/
def memSlice (m : Memory) (i n : Nat) : List Byte := (List.range n).map (fun k => memRead m (i + k))

/-- The entries of a run of octets that starts at address `a`. -/
def memOctets : Nat → List Byte → Memory
  | _, [] => []
  | a, b :: l => if b = 0 then memOctets (a + 1) l else (a, b) :: memOctets (a + 1) l

/-- `MemWrite(buf, 0, n, l)` for a run from index 0: `buf[0 .. n-1] <- l`; octets from `n` on keep their
value. -/
def memSetPrefix (m : Memory) (l : List Byte) : Memory :=
  memOctets 0 l ++ m.filter (fun c => decide (l.length ≤ c.1))

/-- An array of exactly `cap` octets that begins with `l`; octet `i` past `l` is `f i`. -/
def fillTo (f : Nat → Byte) (cap : Nat) (l : List Byte) : List Byte :=
  l.take cap ++ ((List.range cap).drop l.length).map f

/-! ### MSB-first bit streams (R12, R62): stream bit `p` is bit `7 - (p mod 8)` of octet `p div 8` -/

/-- Stream bit `p`. -/
def streamBit (m : Memory) (p : Nat) : Bool := (memRead m (p / 8)).getLsbD (7 - p % 8)

/-- The value of the `n` bits from stream bit `p` on, most significant first: `v <- 2*v + bit` (R142). -/
def readBits (m : Memory) (p : Nat) : Nat → Nat
  | 0 => 0
  | n + 1 => 2 * readBits m p n + (streamBit m (p + n)).toNat

/-- An octet with bit `k` set to `b`. -/
def setOctetBit (x : Byte) (k : Nat) (b : Bool) : Byte :=
  if b then x ||| BitVec.ofNat 8 (2 ^ k) else x &&& ~~~(BitVec.ofNat 8 (2 ^ k))

/-- Stream bit `p` takes the value `b`; every other bit keeps its own. -/
def setStreamBit (m : Memory) (p : Nat) (b : Bool) : Memory :=
  memWrite m (p / 8) (setOctetBit (memRead m (p / 8)) (7 - p % 8) b)

/-- The low `n` bits of `v` at stream bits `p .. p+n-1`, most significant first (R143). -/
def putBits (m : Memory) (p v : Nat) : Nat → Memory
  | 0 => m
  | n + 1 => setStreamBit (putBits m p (v / 2) n) (p + n) (decide (v % 2 = 1))

/-! ### Cursors (R25, R26) -/

/-- A step that reads IBUF through RC, or ends with `none` ("the mark `none` where rule R142 would raise
OVERFLOW", R148). -/
abbrev Rd := StateT ReadCursor Option

/-- `rd(n)` (R142, R148): `n` bits, or `none` with nothing consumed where they would pass the capacity. -/
def rd (ib : Memory) (n : Nat) : Rd (BitVec n) := fun c =>
  if 8 * c.cap < c.pos + n then none
  else some (BitVec.ofNat n (readBits ib c.pos n), { c with pos := c.pos + n })

/-- `skipb()` (R144). -/
def skipb (c : ReadCursor) : ReadCursor := { c with pos := 8 * ceil8 c.pos }

/-- `seek(b)` (R146): clamped to the capacity. -/
def seek (b : Nat) (c : ReadCursor) : ReadCursor := { c with pos := 8 * min b c.cap }

/-- WC and the buffer it writes. -/
structure WStream where
  wc : WriteCursor
  buf : Memory
  deriving DecidableEq, Repr

/-- `wr(v, n)` (R143, R148): the low `n` bits of `v`; refused whole, with `ovf` set, where they would
pass the capacity. -/
def wr (v n : Nat) (w : WStream) : WStream :=
  if 8 * w.wc.cap < w.wc.pos + n then { w with wc := { w.wc with ovf := true } }
  else { wc := { w.wc with pos := w.wc.pos + n }, buf := putBits w.buf w.wc.pos v n }

/-- `flush()` (R145): zero bits up to the next octet boundary. -/
def flushBits (w : WStream) : WStream :=
  { wc := { w.wc with pos := 8 * ceil8 w.wc.pos }
    buf := putBits w.buf w.wc.pos 0 (8 * ceil8 w.wc.pos - w.wc.pos) }

/-- `patch(b, v)` (R147) where octet `b` is wholly behind the cursor. -/
def patch (b v : Nat) (w : WStream) : WStream := { w with buf := memWrite w.buf b (low8 v) }

/-- The write stream of the state. -/
def State.wstream (s : State) : WStream := { wc := s.wc, buf := s.obuf }

/-- Put a write stream back. -/
def State.putW (s : State) (w : WStream) : State := { s with wc := w.wc, obuf := w.buf }

/-! ### Status, results, and raising -/

/-- The status codes of R353. -/
def kindCode : Kind → Word
  | .ok => 0
  | .unsupported => 1
  | .overflow => 2
  | .fault => 3

/-- What every operation does at its start: `DIAG <- 0` (R33). -/
def start (s : State) : State := { s with diag := 0 }

/-- `STATUS <- K`, the whole register (R23, R352). -/
def finish (k : Kind) (s : State) : State := { s with status := kindCode k }

/-- `OBUF[0 .. len-1] <- l`, for an operation whose output has the capacity `cap`: octets from the end of
`l` up to the capacity are unspecified (R24, U7: free values, log 7); octets at the capacity and above
are not written (R61, log 8). -/
def putOutput (cap : Nat) (l : List Byte) (s : State) : State :=
  { s with
    obuf := memSetPrefix s.obuf (fillTo (Config.freeObuf s.free) (min cap s.cfg.obufCap) l)
    free := s.free + 1 }

/-- The capacity the operation may write OBUF up to (R61, log 8): the operand, PDU_CAP or CDMA_PDU_CAP, where its
rule gives one. For ENCADDR, DECADDR, ENCTS and DECTS it is OBUF_CAP, which is the model's choice (log 8): ADDR_STR_CAP
and TS_STR_CAP bound their strings, and OBUF at and above them is left free. For DECGSM and DECCDMA see log 21. -/
def outputCap (op : Running) (s : State) : Nat :=
  match op with
  | .idle | .wcinit => 0
  | .pack7 | .unpack7 => s.arg1.toNat
  | .encgsm => s.cfg.pduCap
  | .enccdma => s.cfg.cdmaPduCap
  | _ => s.cfg.obufCap

/-- OLEN is a result of the operation (R90). -/
def writesOlen : Running → Bool
  | .idle | .decgsm | .deccdma => false
  | _ => true

/-- RES0 is a result of the operation (R90). -/
def writesRes0 : Running → Bool
  | .pack7 | .encaddr => true
  | _ => false

/-- RES1 is a result of the operation (R90). -/
def writesRes1 : Running → Bool
  | .encaddr => true
  | _ => false

/-- Any GSM record, its arrays cut or padded to their capacities. -/
def fitMsgG (c : Config) (m : GsmMsg) : GsmMsg :=
  { m with
    addr := fillTo (fun _ => 0) c.addrStrCap m.addr
    ts := fillTo (fun _ => 0) c.tsStrCap m.ts
    data := fillTo (fun _ => 0) c.gsmDataCap m.data }

/-- What a raise leaves unspecified (R352, U1 to U4): OBUF and the results the operation names take free
values (log 6); an operation that uses a cursor leaves it closed (R26, R272, R385, log 9). A primitive
operation's raise leaves everything as it was. -/
def abandon (op : Running) (s : State) : State :=
  match op with
  | .idle => s
  | _ =>
    { s with
      obuf := memSetPrefix s.obuf
        (fillTo (Config.freeObuf s.free) (min (outputCap op s) s.cfg.obufCap) [])
      olen := if writesOlen op then Config.freeOlen s.free else s.olen
      res0 := if writesRes0 op then Config.freeRes0 s.free else s.res0
      res1 := if writesRes1 op then Config.freeRes1 s.free else s.res1
      msgG := if op = .decgsm then fitMsgG s.cfg (Config.freeMsgG s.free) else s.msgG
      msgC := if op = .deccdma then Config.freeMsgC s.free else s.msgC
      rc := if op = .deccdma then { s.rc with isOpen := false } else s.rc
      wc := if op = .enccdma then { s.wc with isOpen := false } else s.wc
      free := s.free + 1 }

/-- `raise K` (R352), THE one way an operation ends in an error: STATUS takes the kind, DIAG keeps the
bits set so far, the operation's results are abandoned, and nothing is saved and control goes nowhere
(R357). There is no return operation (R358): the next CMD write starts the next operation. -/
def raise (op : Running) (k : Kind) (s : State) : State := finish k (abandon op s)

/-- The illegal command (R92): "no state changes except `STATUS <- FAULT` and `DIAG <- 0`". -/
def illegalCommand (s : State) : State := { s with status := kindCode .fault, diag := 0 }

end Sys2Proof.Machine
end

