-- ==== Sys2Proof/Machine/Flags.lean ====
section
/-! DEFINITION. The flags: the DIAG bits (10_state.md R33) and the masks of the CDMA records (R37). The
third kind of flag, WC.ovf (R28), is set in Ops.wr. -/

namespace Sys2Proof.Machine

/-- DIAG bit 0, UNKNOWN_ID. -/
def diagUnknownId : Word := 0x01
/-- DIAG bit 1, LEN_MISMATCH. -/
def diagLenMismatch : Word := 0x02
/-- DIAG bit 2, BODY_FAIL. -/
def diagBodyFail : Word := 0x04
/-- DIAG bit 3, TRUNC. -/
def diagTrunc : Word := 0x08
/-- DIAG bit 4, WIDTH. -/
def diagWidth : Word := 0x10

/-- `DIAG.bit <- 1`; the other bits keep their value. -/
def setDiag (bit : Word) (s : State) : State := { s with diag := s.diag ||| bit }

/-- `parameterMask[id] <- 1` (R243). -/
def markParam (id : Nat) (m : CdmaPdu) : CdmaPdu :=
  { m with parameterMask := m.parameterMask ||| BitVec.ofNat 9 (2 ^ id) }

/-- `subParameterMask[id] <- 1` (R251). -/
def markSub (id : Nat) (b : CdmaBearer) : CdmaBearer :=
  { b with subParameterMask := b.subParameterMask ||| BitVec.ofNat 24 (2 ^ id) }

/-- `parameterMask[id]` (R37). -/
def hasParam (id : Nat) (m : CdmaPdu) : Bool := m.parameterMask.getLsbD id

/-- `subParameterMask[id]` (R37). -/
def hasSub (id : Nat) (b : CdmaBearer) : Bool := b.subParameterMask.getLsbD id

end Sys2Proof.Machine
end

