-- ==== Sys2Proof/Machine/Operands.lean ====
section
/-! DEFINITION. The operands of the operations and the common operand checks (30_encoding.md R90, R91;
10_state.md R21). -/

namespace Sys2Proof.Machine

/-- `ILEN > IBUF_CAP` (R91). -/
def ilenTooLong (s : State) : Bool := decide (s.cfg.ibufCap < s.ilen.toNat)

/-- A capacity operand larger than OBUF_CAP (R91). -/
def capTooLarge (s : State) (cap : Word) : Bool := decide (s.cfg.obufCap < cap.toNat)

/-- `ARG2[31:2]` not 0 (R91). -/
def flagsReserved (s : State) : Bool := decide (s.arg2.extractLsb' 2 30 ≠ 0)

/-- `ARG2[0]`, the flag `sca` (R21). -/
def scaFlag (s : State) : Bool := s.arg2.getLsbD 0

/-- `ARG2[1]`, the flag `srr` (R21). -/
def srrFlag (s : State) : Bool := s.arg2.getLsbD 1

/-- The valid part of IBUF, `IBUF[0 .. ILEN-1]` (R24). -/
def input (s : State) : List Byte := memSlice s.ibuf 0 s.ilen.toNat

/-- `ARG1[7:0]`, the type-of-address operand of DECADDR (R181). -/
def toaOperand (s : State) : Byte := s.arg1.extractLsb' 0 8

/-- A scalar result, zero-extended to 32 bits (R13). -/
def toWord (n : Nat) : Word := BitVec.ofNat 32 n

end Sys2Proof.Machine
end

