-- ==== Sys2Proof/Machine/BitBuffer.lean ====
section
/-! DEFINITION. The eight primitive bit-buffer operations (40_bitbuffer.md). A closed cursor is tested
before the operation's own checks, and then nothing else changes (R148, log 10). -/

namespace Sys2Proof.Machine

open Host (Outcome)

/-- RCINIT (R140). -/
def execRcinit (s : State) : Outcome State Fault Refusal :=
  let s := start s
  .next (if ilenTooLong s then raise .idle .fault s
    else finish .ok { s with rc := { isOpen := true, cap := s.ilen.toNat, pos := 0 } })

/-- WCINIT (R141): opens WC and clears the octets it may write. -/
def execWcinit (s : State) : Outcome State Fault Refusal :=
  let s := start s
  .next (if capTooLarge s s.arg0 then raise .wcinit .fault s
    else finish .ok
      { s with
        wc := { isOpen := true, cap := s.arg0.toNat, pos := 0, ovf := false }
        obuf := memSetPrefix s.obuf (List.replicate s.arg0.toNat 0)
        olen := 0 })

/-- RDBITS (R142): a width outside 1 to 32 sets DIAG.WIDTH, RES0 = 0, FAULT; too few bits, RES0 = 0,
OVERFLOW; RC.pos is unchanged in both. -/
def execRdbits (s : State) : Outcome State Fault Refusal :=
  let s := start s
  let n := s.arg0.toNat
  .next (
    if s.rc.isOpen = false then raise .idle .fault s
    else if n < 1 ∨ 32 < n then raise .idle .fault (setDiag diagWidth { s with res0 := 0 })
    else match rd s.ibuf n s.rc with
      | none => raise .idle .overflow { s with res0 := 0 }
      | some (v, c) => finish .ok { s with rc := c, res0 := v.setWidth 32 })

/-- WRBITS (R143): refused whole, with WC.ovf set, where the bits do not fit. -/
def execWrbits (s : State) : Outcome State Fault Refusal :=
  let s := start s
  let n := s.arg0.toNat
  .next (
    if s.wc.isOpen = false then raise .idle .fault s
    else if n < 1 ∨ 32 < n then raise .idle .fault (setDiag diagWidth s)
    else if 8 * s.wc.cap < s.wc.pos + n then
      raise .idle .overflow (s.putW (wr s.arg1.toNat n s.wstream))
    else finish .ok (s.putW (wr s.arg1.toNat n s.wstream)))

/-- SKIPB (R144). -/
def execSkipb (s : State) : Outcome State Fault Refusal :=
  let s := start s
  .next (if s.rc.isOpen = false then raise .idle .fault s
    else finish .ok { s with rc := skipb s.rc })

/-- FLUSH (R145): OLEN takes the total written octet count. -/
def execFlush (s : State) : Outcome State Fault Refusal :=
  let s := start s
  .next (if s.wc.isOpen = false then raise .idle .fault s
    else
      let w := flushBits s.wstream
      finish .ok { s.putW w with olen := toWord (w.wc.pos / 8) })

/-- RCSEEK (R146). -/
def execRcseek (s : State) : Outcome State Fault Refusal :=
  let s := start s
  .next (if s.rc.isOpen = false then raise .idle .fault s
    else finish .ok { s with rc := seek s.arg0.toNat s.rc })

/-- WCPATCH (R147): only an octet already written in full can be patched. -/
def execWcpatch (s : State) : Outcome State Fault Refusal :=
  let s := start s
  let b := s.arg0.toNat
  .next (
    if s.wc.isOpen = false then raise .idle .fault s
    else if s.wc.pos < 8 * b + 8 then raise .idle .fault s
    else finish .ok (s.putW (patch b s.arg1.toNat s.wstream)))

end Sys2Proof.Machine
end

