-- ==== Sys2Proof/Machine/CdmaDecode.lean ====
section
/-! DEFINITION. The CDMA-TLV decoder (44_cdma_decode.md): the body decoders D_0 to D_8 and DS_0 to DS_21
over the read cursor, the dispatch with its length validation, the resynchronisation, and DECCDMA. The
body layouts are the spec's, from general knowledge (log 19). -/

namespace Sys2Proof.Machine

open Host (Outcome)

/-! ### Body decoders (R245 to R270). `none` is `fail` (R244) -/

/-- `fail`. -/
def failBody {α : Type} : Rd α := fun _ => none

/-- `k` units of `n` bits. -/
def rdUnits (ib : Memory) (n : Nat) : Nat → Rd (List (BitVec n))
  | 0 => pure []
  | k + 1 => do
    let u ← rd ib n
    let us ← rdUnits ib n k
    pure (u :: us)

/-- The units of an address or call-back number: 8 bits when `digitMode = 1`, else 4 (R32). -/
def unitWidth (digitMode : BitVec 1) : Nat := if digitMode = 1 then 8 else 4

/-- `fieldsNumber` address units, each held in an octet. -/
def rdChari (ib : Memory) (digitMode : BitVec 1) (k : Nat) : Rd (List Byte) :=
  if digitMode = 1 then rdUnits ib 8 k
  else do
    let us ← rdUnits ib 4 k
    pure (us.map (fun u => u.setWidth 8))

/-- D_addr (R247). -/
def rdAddress (c : Config) (ib : Memory) : Rd CdmaAddress := do
  let digitMode ← rd ib 1
  let numberMode ← rd ib 1
  let numberType ← if digitMode = 1 then rd ib 3 else pure 0
  let numberPlan ← if digitMode = 1 ∧ numberMode = 0 then rd ib 4 else pure 0
  let fieldsNumber ← rd ib 8
  if c.cdmaAddrCap < ceil8 (fieldsNumber.toNat * unitWidth digitMode) then failBody
  else
    let chari ← rdChari ib digitMode fieldsNumber.toNat
    pure { digitMode, numberMode, numberType, numberPlan, fieldsNumber, chari }

/-- D_subaddr (R248). -/
def rdSubaddress (c : Config) (ib : Memory) : Rd CdmaSubaddress := do
  let type ← rd ib 3
  let odd ← rd ib 1
  let fieldsNumber ← rd ib 8
  if c.cdmaSubaddrCap < fieldsNumber.toNat then failBody
  else
    let chari ← rdUnits ib 8 fieldsNumber.toNat
    pure { type, odd, fieldsNumber, chari }

/-- D_cause (R250). -/
def rdCause (ib : Memory) : Rd CdmaCause := do
  let replySeq ← rd ib 6
  let errorClass ← rd ib 2
  let causeCode ← if errorClass ≠ 0 then rd ib 8 else pure 0
  pure { replySeq, errorClass, causeCode }

/-- The bodies of the top-level parameters 0 to 7, each stored in its slot (R245 to R250). -/
def paramBody (c : Config) (ib : Memory) (id : Nat) (m : CdmaPdu) : Rd CdmaPdu :=
  match id with
  | 0 => do
    let v ← rd ib 16
    pure { m with teleserviceId := v }
  | 1 => do
    let v ← rd ib 16
    pure { m with serviceCategory := v }
  | 2 => do
    let v ← rdAddress c ib
    pure { m with origAddr := v }
  | 3 => do
    let v ← rdSubaddress c ib
    pure { m with origSubaddr := v }
  | 4 => do
    let v ← rdAddress c ib
    pure { m with destAddr := v }
  | 5 => do
    let v ← rdSubaddress c ib
    pure { m with destSubaddr := v }
  | 6 => do
    let v ← rd ib 6
    pure { m with bearerReplySeq := v }
  | 7 => do
    let v ← rdCause ib
    pure { m with cause := v }
  | _ => failBody

/-- The unit width `W(encoding)` (R106), `none` for a tag with none. -/
def udWidth (encoding : BitVec 5) : Option Nat :=
  if encoding = 0 ∨ encoding = 7 ∨ encoding = 8 then some 8
  else if encoding = 2 ∨ encoding = 3 ∨ encoding = 9 then some 7
  else if encoding = 4 then some 16
  else none

/-- DS_1 after its encoding tag (R253). -/
def rdUserDataRest (c : Config) (ib : Memory) (encoding : BitVec 5) : Rd CdmaUserData := do
  let messageType ← if encoding = 1 ∨ encoding = 10 then rd ib 8 else pure 0
  let fieldsNumber ← rd ib 8
  match udWidth encoding with
  | none => failBody
  | some w =>
    if c.cdmaUdCap < ceil8 (fieldsNumber.toNat * w) then failBody
    else do
      let us ← rdUnits ib w fieldsNumber.toNat
      pure { encoding, messageType, fieldsNumber, chari := us.map (fun u => u.setWidth 16) }

/-- Six raw octets (R255). -/
def rdDate (ib : Memory) : Rd CdmaDate := do
  let year ← rd ib 8
  let month ← rd ib 8
  let day ← rd ib 8
  let hours ← rd ib 8
  let minutes ← rd ib 8
  let seconds ← rd ib 8
  pure { year, month, day, hours, minutes, seconds }

/-- DS_14 (R266): no `numberMode` bit. -/
def rdCallBack (c : Config) (ib : Memory) : Rd CdmaCallBack := do
  let digitMode ← rd ib 1
  let numberType ← if digitMode = 1 then rd ib 3 else pure 0
  let numberPlan ← if digitMode = 1 then rd ib 4 else pure 0
  let fieldsNumber ← rd ib 8
  if c.cdmaAddrCap < ceil8 (fieldsNumber.toNat * unitWidth digitMode) then failBody
  else
    let chari ← rdChari ib digitMode fieldsNumber.toNat
    pure { digitMode, numberType, numberPlan, fieldsNumber, chari }

/-- The bodies of the nineteen sub-parameters, each stored in its slot (R252 to R270). -/
def subBody (c : Config) (ib : Memory) (sid : Nat) (b : CdmaBearer) : Rd CdmaBearer :=
  match sid with
  | 0 => do
    let messageType ← rd ib 4
    let messageId ← rd ib 16
    let headerInd ← rd ib 1
    pure { b with messageIdentifier := { messageType, messageId, headerInd } }
  | 1 => do
    let encoding ← rd ib 5
    let v ← rdUserDataRest c ib encoding
    pure { b with userData := v }
  | 2 => do
    let v ← rd ib 8
    pure { b with userResponseCode := v }
  | 3 => do
    let v ← rdDate ib
    pure { b with messageCenterTimeStamp := v }
  | 4 => do
    let v ← rdDate ib
    pure { b with validityPeriodAbsolute := v }
  | 5 => do
    let v ← rd ib 8
    pure { b with validityPeriodRelative := v }
  | 6 => do
    let v ← rdDate ib
    pure { b with deferredDeliveryTimeAbsolute := v }
  | 7 => do
    let v ← rd ib 8
    pure { b with deferredDeliveryTimeRelative := v }
  | 8 => do
    let v ← rd ib 2
    pure { b with priority := v }
  | 9 => do
    let v ← rd ib 2
    pure { b with privacy := v }
  | 10 => do
    let userAck ← rd ib 1
    let deliveryAck ← rd ib 1
    let readAck ← rd ib 1
    let report ← rd ib 1
    pure { b with replyOption := { userAck, deliveryAck, readAck, report } }
  | 11 => do
    let v ← rd ib 8
    pure { b with messageCount := v }
  | 12 => do
    let v ← rd ib 2
    pure { b with alertPriority := v }
  | 13 => do
    let v ← rd ib 8
    pure { b with language := v }
  | 14 => do
    let v ← rdCallBack c ib
    pure { b with callBackNumber := v }
  | 15 => do
    let v ← rd ib 2
    pure { b with displayMode := v }
  | 17 => do
    let v ← rd ib 16
    pure { b with depositIndex := v }
  | 20 => do
    let errorClass ← rd ib 2
    let statusCode ← rd ib 6
    pure { b with messageStatus := { errorClass, statusCode } }
  | 21 => do
    let v ← rd ib 8
    pure { b with tpFailureCause := v }
  | _ => failBody

/-! ### Dispatch, length validation and resynchronisation -/

/-- The expected length of a fixed-length top-level parameter (R103, R243). -/
def paramLength (id : Nat) : Option Nat :=
  match id with
  | 0 | 1 => some 2
  | 6 => some 1
  | _ => none

/-- The nineteen implemented sub-parameters (R251, 90_conflicts.md C5). -/
def knownSub (sid : Nat) : Bool := decide (sid ≤ 15) || decide (sid = 17) || decide (sid = 20) ||
  decide (sid = 21)

/-- The expected length `E(sid)` of a fixed-length sub-parameter (R104, R251). -/
def subLength (sid : Nat) : Option Nat :=
  match sid with
  | 0 => some 3
  | 3 | 4 | 6 => some 6
  | 17 => some 2
  | 2 | 5 | 7 | 8 | 9 | 10 | 11 | 12 | 13 | 15 | 20 | 21 => some 1
  | _ => none

/-- A declared length differs from a fixed expected length. -/
def lengthMismatch (expected : Option Nat) (len : Nat) : Bool :=
  match expected with
  | none => false
  | some e => decide (len ≠ e)

/-- What DECCDMA's loop works on: RC, DIAG, the record M, the bearer record B and its end. -/
structure DecodeCtx where
  rc : ReadCursor
  diag : Word
  m : CdmaPdu
  b : CdmaBearer
  bEnd : Nat
  deriving DecidableEq, Repr

/-- `DIAG.bit <- 1`. -/
def flagDiag (bit : Word) (x : DecodeCtx) : DecodeCtx := { x with diag := x.diag ||| bit }

/-- Resynchronisation (R242): the cursor is set to octet `t`, whatever the decoder consumed. -/
def resync (t : Nat) (x : DecodeCtx) : DecodeCtx := { x with rc := seek t x.rc }

/-- One sub-parameter whose header has just been read (R251): dispatch on `sid`, then resynchronise to
`min(sp + slen, end)`. -/
def decodeSub (c : Config) (ib : Memory) (sid slen : Nat) (x : DecodeCtx) : DecodeCtx :=
  resync (min (x.rc.pos / 8 + slen) x.bEnd) (
    if knownSub sid = false then flagDiag diagUnknownId x
    else if lengthMismatch (subLength sid) slen then flagDiag diagLenMismatch x
    else match subBody c ib sid x.b x.rc with
      | none => flagDiag diagBodyFail x
      | some (b, _) => { x with b := markSub sid b })

/-- The loop of D_8 (R251). Each iteration moves at least two octets on, so `fuel` = the number of octets
is enough (Laws/Cdma.lean). -/
def subLoop (c : Config) (ib : Memory) : Nat → DecodeCtx → DecodeCtx
  | 0, x => x
  | fuel + 1, x =>
    if x.bEnd ≤ x.rc.pos / 8 then x
    else if x.bEnd < x.rc.pos / 8 + 2 then flagDiag diagTrunc x
    else
      let sid := readBits ib x.rc.pos 8
      let slen := readBits ib (x.rc.pos + 8) 8
      subLoop c ib fuel
        (decodeSub c ib sid slen { x with rc := { x.rc with pos := x.rc.pos + 16 } })

/-- D_8 (R251): it starts from an all-zero CdmaBearerData and never fails. -/
def decodeBearer (c : Config) (ib : Memory) (len : Nat) (x : DecodeCtx) : DecodeCtx :=
  let y := subLoop c ib x.rc.cap
    { x with b := {}, bEnd := min (x.rc.pos / 8 + len) x.rc.cap }
  { y with m := markParam 8 { y.m with bearer := y.b } }

/-- One top-level parameter whose header has just been read (R241, R243): dispatch on `id`, then
resynchronise to `p + len`. -/
def decodeParamBody (c : Config) (ib : Memory) (id len : Nat) (x : DecodeCtx) : DecodeCtx :=
  resync (x.rc.pos / 8 + len) (
    if 8 < id then flagDiag diagUnknownId x
    else if lengthMismatch (paramLength id) len then flagDiag diagLenMismatch x
    else if id = 8 then decodeBearer c ib len x
    else match paramBody c ib id x.m x.rc with
      | none => flagDiag diagBodyFail x
      | some (m, _) => { x with m := markParam id m })

/-- The top-level loop (R241), to the end of the buffer (`RC.cap = ILEN`). -/
def paramLoop (c : Config) (ib : Memory) : Nat → DecodeCtx → DecodeCtx
  | 0, x => x
  | fuel + 1, x =>
    if x.rc.cap ≤ x.rc.pos / 8 then x
    else if x.rc.cap < x.rc.pos / 8 + 2 then flagDiag diagTrunc x
    else
      let id := readBits ib x.rc.pos 8
      let len := readBits ib (x.rc.pos + 8) 8
      paramLoop c ib fuel
        (decodeParamBody c ib id len { x with rc := { x.rc with pos := x.rc.pos + 16 } })

/-- The message format octet (R105, R240): 0, 1 and 2 are kept, the rest refused. -/
def takeFormat (v : Byte) (m : CdmaPdu) : Except Kind CdmaPdu :=
  if 2 < v.toNat then .error .unsupported else .ok { m with format := v }

/-- RC as DECCDMA opens it over `ilen` octets, the format octet read (R240). -/
def openR (ilen : Nat) : ReadCursor := { isOpen := true, cap := ilen, pos := 8 }

/-- DECCDMA over the octets of a buffer that is not empty (R240): after the format octet nothing can make it
fail. -/
def decCdma (c : Config) (ib : Memory) (ilen : Nat) : Except Kind DecodeCtx :=
  match takeFormat (BitVec.ofNat 8 (readBits ib 0 8)) {} with
  | .error k => .error k
  | .ok m => .ok (paramLoop c ib ilen { rc := openR ilen, diag := 0, m := m, b := {}, bEnd := 0 })

/-- DECCDMA (R240, R272): the read cursor is left closed on every path (log 9); its other fields keep the last
values these steps gave them (log 22). -/
def execDeccdma (s : State) : Outcome State Fault Refusal :=
  let s := start s
  .next (
    if ilenTooLong s || decide (s.ilen = 0) then raise .deccdma .fault s
    else match decCdma s.cfg s.ibuf s.ilen.toNat with
      | .error k => raise .deccdma k { s with rc := openR s.ilen.toNat }
      | .ok x => finish .ok
          { s with msgC := x.m, diag := x.diag, rc := { x.rc with isOpen := false } })

end Sys2Proof.Machine
end

