-- ==== Sys2Proof/Machine/CdmaEncode.lean ====
section
/-! DEFINITION. The CDMA-TLV encoder (45_cdma_encode.md): the bodies E_0 to E_8 and ES_0 to ES_21 over
the write cursor, the TLV procedure with its placeholder and patch, and ENCCDMA. -/

namespace Sys2Proof.Machine

open Host (Outcome)

/-- `wr` of a field. -/
def wrF {n : Nat} (v : BitVec n) (w : WStream) : WStream := wr v.toNat n w

/-- `fieldsNumber` units of `n` bits; a unit past the list is 0 (log 17). -/
def wrUnits {k : Nat} (n : Nat) (us : List (BitVec k)) (count : Nat) (w : WStream) : WStream :=
  (List.range count).foldl (fun w i => wr (us.getD i 0).toNat n w) w

/-- E_addr (R304). -/
def wrAddress (a : CdmaAddress) (w : WStream) : WStream :=
  let w := wrF a.numberMode (wrF a.digitMode w)
  let w := if a.digitMode = 1 then wrF a.numberType w else w
  let w := if a.digitMode = 1 ∧ a.numberMode = 0 then wrF a.numberPlan w else w
  wrUnits (unitWidth a.digitMode) a.chari a.fieldsNumber.toNat (wrF a.fieldsNumber w)

/-- E_subaddr (R305). -/
def wrSubaddress (a : CdmaSubaddress) (w : WStream) : WStream :=
  wr 0 4 (wrUnits 8 a.chari a.fieldsNumber.toNat (wrF a.fieldsNumber (wrF a.odd (wrF a.type w))))

/-- E_7 (R309). -/
def wrCause (a : CdmaCause) (w : WStream) : WStream :=
  let w := wrF a.errorClass (wrF a.replySeq w)
  if a.errorClass ≠ 0 then wrF a.causeCode w else w

/-- Six raw octets (R314). -/
def wrDate (d : CdmaDate) (w : WStream) : WStream :=
  wrF d.seconds (wrF d.minutes (wrF d.hours (wrF d.day (wrF d.month (wrF d.year w)))))

/-- ES_14 (R325). -/
def wrCallBack (a : CdmaCallBack) (w : WStream) : WStream :=
  let w := wrF a.digitMode w
  let w := if a.digitMode = 1 then wrF a.numberPlan (wrF a.numberType w) else w
  wrUnits (unitWidth a.digitMode) a.chari a.fieldsNumber.toNat (wrF a.fieldsNumber w)

/-- ES_1 (R312); a tag with no unit width writes no units (it is refused before, R300). -/
def wrUserData (u : CdmaUserData) (w : WStream) : WStream :=
  wrUnits ((udWidth u.encoding).getD 0) u.chari
    (if (udWidth u.encoding).isSome then u.fieldsNumber.toNat else 0)
    (wrF u.fieldsNumber (wrF u.encoding w))

/-- The bodies E_0 to E_7 (R302 to R309). -/
def wrParam (id : Nat) (m : CdmaPdu) (w : WStream) : WStream :=
  match id with
  | 0 => wrF m.teleserviceId w
  | 1 => wrF m.serviceCategory w
  | 2 => wrAddress m.origAddr w
  | 3 => wrSubaddress m.origSubaddr w
  | 4 => wrAddress m.destAddr w
  | 5 => wrSubaddress m.destSubaddr w
  | 6 => wrF m.bearerReplySeq w
  | 7 => wrCause m.cause w
  | _ => w

/-- The bodies ES_0 to ES_21 (R311 to R329). -/
def wrSub (sid : Nat) (b : CdmaBearer) (w : WStream) : WStream :=
  match sid with
  | 0 => wrF b.messageIdentifier.headerInd
      (wrF b.messageIdentifier.messageId (wrF b.messageIdentifier.messageType w))
  | 1 => wrUserData b.userData w
  | 2 => wrF b.userResponseCode w
  | 3 => wrDate b.messageCenterTimeStamp w
  | 4 => wrDate b.validityPeriodAbsolute w
  | 5 => wrF b.validityPeriodRelative w
  | 6 => wrDate b.deferredDeliveryTimeAbsolute w
  | 7 => wrF b.deferredDeliveryTimeRelative w
  | 8 => wrF b.priority w
  | 9 => wrF b.privacy w
  | 10 => wrF b.replyOption.report (wrF b.replyOption.readAck
      (wrF b.replyOption.deliveryAck (wrF b.replyOption.userAck w)))
  | 11 => wrF b.messageCount w
  | 12 => wrF b.alertPriority w
  | 13 => wrF b.language w
  | 14 => wrCallBack b.callBackNumber w
  | 15 => wrF b.displayMode w
  | 17 => wrF b.depositIndex w
  | 20 => wrF b.messageStatus.statusCode (wrF b.messageStatus.errorClass w)
  | 21 => wrF b.tpFailureCause w
  | _ => w

/-- Writing, where a TLV body above 255 octets raises OVERFLOW (R301): the error carries the stream as
the raise finds it. -/
abbrev Wr := Except WStream WStream

/-- The TLV header: identifier and placeholder (R301). -/
def tlvHead (id : Nat) (w : WStream) : WStream := wr 0 8 (wr id 8 w)

/-- The end of a TLV (R301): flush, and patch the length octet `lp` with the number of body octets,
unless the stream has overflowed. -/
def tlvEnd (lp : Nat) (w : WStream) : Wr :=
  let w := flushBits w
  let len := w.wc.pos / 8 - (lp + 1)
  if w.wc.ovf then .ok w
  else if 255 < len then .error w
  else .ok (patch lp len w)

/-- `tlv(id, body)` (R301): placeholder, body, flush, patch. -/
def tlv (id : Nat) (body : WStream → Wr) (w : WStream) : Wr :=
  match body (tlvHead id w) with
  | .error w => .error w
  | .ok v => tlvEnd ((wr id 8 w).wc.pos / 8) v

/-- One sub-parameter, written when its mask bit is set (R310). -/
def encodeSub (b : CdmaBearer) (sid : Nat) (w : WStream) : Wr :=
  if hasSub sid b then tlv sid (fun w => .ok (wrSub sid b w)) w else .ok w

/-- The identifiers of the implemented sub-parameters, ascending (R310). -/
def subIds : List Nat := [0, 1, 2, 3, 4, 5, 6, 7, 8, 9, 10, 11, 12, 13, 14, 15, 17, 20, 21]

/-- `f` on each identifier in turn, to the first raise. -/
def eachId (f : Nat → WStream → Wr) : List Nat → WStream → Wr
  | [], w => .ok w
  | i :: l, w =>
    match f i w with
    | .error w => .error w
    | .ok w => eachId f l w

/-- E_8 (R310). -/
def wrBearer (b : CdmaBearer) (w : WStream) : Wr := eachId (encodeSub b) subIds w

/-- One top-level parameter, written when its mask bit is set (R300). -/
def encodeParam (m : CdmaPdu) (id : Nat) (w : WStream) : Wr :=
  if hasParam id m then
    if id = 8 then tlv 8 (wrBearer m.bearer) w
    else tlv id (fun w => .ok (wrParam id m w)) w
  else .ok w

/-! ### The checks made before anything is written (R300) -/

/-- The mask bit of an unimplemented kind is set in a present bearer (R330). -/
def hasUnimplemented (m : CdmaPdu) : Bool :=
  hasParam 8 m && [16, 18, 19, 22, 23].any (fun i => hasSub i m.bearer)

/-- An address fits its buffer (R32). -/
def addressFits (c : Config) (a : CdmaAddress) : Bool :=
  decide (ceil8 (a.fieldsNumber.toNat * unitWidth a.digitMode) ≤ c.cdmaAddrCap)

/-- A sub-address fits its buffer (R34). -/
def subaddressFits (c : Config) (a : CdmaSubaddress) : Bool :=
  decide (a.fieldsNumber.toNat ≤ c.cdmaSubaddrCap)

/-- A call-back number fits its buffer (R35). -/
def callBackFits (c : Config) (a : CdmaCallBack) : Bool :=
  decide (ceil8 (a.fieldsNumber.toNat * unitWidth a.digitMode) ≤ c.cdmaAddrCap)

/-- User data fits its buffer; tested only when its encoding has a width (R300). -/
def userDataFits (c : Config) (u : CdmaUserData) : Bool :=
  match udWidth u.encoding with
  | none => true
  | some w => decide (ceil8 (u.fieldsNumber.toNat * w) ≤ c.cdmaUdCap)

/-- Every present slot keeps its capacity invariant (R300). -/
def recordFits (c : Config) (m : CdmaPdu) : Bool :=
  (!hasParam 2 m || addressFits c m.origAddr) && (!hasParam 4 m || addressFits c m.destAddr) &&
  (!hasParam 3 m || subaddressFits c m.origSubaddr) &&
  (!hasParam 5 m || subaddressFits c m.destSubaddr) &&
  (!(hasParam 8 m && hasSub 14 m.bearer) || callBackFits c m.bearer.callBackNumber) &&
  (!(hasParam 8 m && hasSub 1 m.bearer) || userDataFits c m.bearer.userData)

/-- The present user data has an encoding with no unit width (R312). -/
def hasUnhandledEncoding (m : CdmaPdu) : Bool :=
  hasParam 8 m && hasSub 1 m.bearer && (udWidth m.bearer.userData.encoding).isNone

/-- The checks, in the order of R300. -/
def checkRecord (c : Config) (m : CdmaPdu) : Except Kind Unit :=
  if 2 < m.format.toNat then .error .fault
  else if hasUnimplemented m then .error .fault
  else if recordFits c m = false then .error .fault
  else if hasUnhandledEncoding m then .error .unsupported
  else .ok ()

/-- WC as ENCCDMA opens it, the octets up to the capacity at 0x00 (R300). -/
def openW (cap : Nat) (buf : Memory) : WStream :=
  { wc := { isOpen := true, cap := cap, pos := 0, ovf := false }
    buf := memSetPrefix buf (List.replicate cap 0) }

/-- The emission of R300: the format octet, then each present parameter in ascending order. -/
def emitRecord (m : CdmaPdu) (w : WStream) : Wr :=
  eachId (encodeParam m) [0, 1, 2, 3, 4, 5, 6, 7, 8] (wrF m.format w)

/-- ENCCDMA (R300, R331): the write cursor is left closed on every path (log 9); its other fields keep the last
values these steps gave them, the emission's after an OVERFLOW too (log 22). -/
def execEnccdma (s : State) : Outcome State Fault Refusal :=
  let s := start s
  .next (
    match checkRecord s.cfg s.msgC with
    | .error k => raise .enccdma k s
    | .ok _ =>
      match emitRecord s.msgC (openW s.cfg.cdmaPduCap s.obuf) with
      | .error w => raise .enccdma .overflow (s.putW w)
      | .ok w =>
        if w.wc.ovf then raise .enccdma .overflow (s.putW w)
        else finish .ok
          { s with
            wc := { w.wc with isOpen := false }
            obuf := w.buf
            olen := toWord (w.wc.pos / 8) })

end Sys2Proof.Machine
end

