-- ==== Sys2Proof/Machine/CdmaElements.lean ====
section
/-! DEFINITION. The CDMA wire-format elements as steps of the operation that meets them (log 11): message
format octets (R105), parameter headers (R103), sub-parameter headers (R104) and user-data encoding tags
(R106). While ENCCDMA runs (`work.op`) an element is written; otherwise it is decoded, its header having
just been read. The composite operations are built from the same shared operations. -/

namespace Sys2Proof.Machine

open Host (Outcome)

/-- The decoder's context in the state. -/
def State.decodeCtx (s : State) : DecodeCtx :=
  { rc := s.rc, diag := s.diag, m := s.work.m, b := s.work.b, bEnd := s.work.bEnd }

/-- Put a decoder's context back. -/
def State.putDecode (s : State) (x : DecodeCtx) : State :=
  { s with
    rc := x.rc
    diag := x.diag
    work := { s.work with m := x.m, b := x.b, bEnd := x.bEnd } }

/-- A raise inside a running operation ends it (log 11). -/
def stopOperation (k : Kind) (s : State) : State := { raise s.work.op k s with work := {} }

/-- One step of ENCCDMA on the write stream. -/
def encodeStep (f : WStream → Wr) (s : State) : State :=
  match f s.wstream with
  | .error w => stopOperation .overflow (s.putW w)
  | .ok w => s.putW w

/-- A top-level parameter: its dispatch on decode (R243), its TLV on encode (R301). -/
def paramElement (id : Nat) (len : Byte) (s : State) : State :=
  if s.work.op = .enccdma then encodeStep (encodeParam s.msgC id) s
  else s.putDecode (decodeParamBody s.cfg s.ibuf id len.toNat s.decodeCtx)

/-- A sub-parameter: its dispatch on decode (R251), its TLV on encode (R310). -/
def subElement (sid : Nat) (len : Byte) (s : State) : State :=
  if s.work.op = .enccdma then encodeStep (encodeSub s.msgC.bearer sid) s
  else s.putDecode (decodeSub s.cfg s.ibuf sid len.toNat s.decodeCtx)

/-- A kind with no body: skipped on decode (R271); on encode, FAULT where its mask bit is set in a
present bearer (R330). -/
def unimplementedElement (sid : Nat) (len : Byte) (s : State) : State :=
  if s.work.op = .enccdma then
    if hasParam 8 s.msgC && hasSub sid s.msgC.bearer then stopOperation .fault s else s
  else s.putDecode (decodeSub s.cfg s.ibuf sid len.toNat s.decodeCtx)

/-- An identifier the block does not know: skipped on decode (R243, R271), never written. -/
def unknownElement (decode : DecodeCtx → DecodeCtx) (s : State) : State :=
  if s.work.op = .enccdma then s else s.putDecode (decode s.decodeCtx)

/-- A message format octet: kept or UNSUPPORTED on decode (R240); written, or FAULT, on encode (R300). -/
def formatElement (v : Byte) (s : State) : State :=
  if s.work.op = .enccdma then
    if 2 < v.toNat then stopOperation .fault s else s.putW (wrF v s.wstream)
  else
    match takeFormat v s.work.m with
    | .error k => stopOperation k s
    | .ok m => { s with work := { s.work with m := m } }

/-- A user-data encoding tag: the rest of DS_1 on decode (R253), with the slot stored and its mask bit
set, or DIAG.BODY_FAIL; ES_1 on encode, or UNSUPPORTED for a tag with no unit width (R312). -/
def encodingElement (tag : BitVec 5) (s : State) : State :=
  if s.work.op = .enccdma then
    if (udWidth tag).isNone then stopOperation .unsupported s
    else s.putW (wrUserData { s.msgC.bearer.userData with encoding := tag } s.wstream)
  else
    match rdUserDataRest s.cfg s.ibuf tag s.rc with
    | none => setDiag diagBodyFail s
    | some (u, c) =>
      { s with
        rc := c
        work := { s.work with b := markSub 1 { s.work.b with userData := u } } }

/-- FMT.POINTTOPOINT (R105). -/
def execFmtPointToPoint (s : State) : Outcome State Fault Refusal :=
  .next (formatElement 0 s)

/-- FMT.BROADCAST (R105). -/
def execFmtBroadcast (s : State) : Outcome State Fault Refusal :=
  .next (formatElement 1 s)

/-- FMT.ACKNOWLEDGE (R105). -/
def execFmtAcknowledge (s : State) : Outcome State Fault Refusal :=
  .next (formatElement 2 s)

/-- (FMT.UNDEFINED): UNSUPPORTED on decode, FAULT on encode (R105, R107). -/
def execFmtUndefined (value : Byte) (s : State) : Outcome State Fault Refusal :=
  .next (formatElement value s)

/-- P.TELESERVICE (R245, R302). -/
def execPTeleservice (len : Byte) (s : State) : Outcome State Fault Refusal :=
  .next (paramElement 0 len s)

/-- P.SERVCAT (R246, R303). -/
def execPServcat (len : Byte) (s : State) : Outcome State Fault Refusal :=
  .next (paramElement 1 len s)

/-- P.ORIGADDR (R247, R304). -/
def execPOrigaddr (len : Byte) (s : State) : Outcome State Fault Refusal :=
  .next (paramElement 2 len s)

/-- P.ORIGSUB (R248, R305). -/
def execPOrigsub (len : Byte) (s : State) : Outcome State Fault Refusal :=
  .next (paramElement 3 len s)

/-- P.DESTADDR (R247, R306). -/
def execPDestaddr (len : Byte) (s : State) : Outcome State Fault Refusal :=
  .next (paramElement 4 len s)

/-- P.DESTSUB (R248, R307). -/
def execPDestsub (len : Byte) (s : State) : Outcome State Fault Refusal :=
  .next (paramElement 5 len s)

/-- P.BEARERREPLY (R249, R308). -/
def execPBearerreply (len : Byte) (s : State) : Outcome State Fault Refusal :=
  .next (paramElement 6 len s)

/-- P.CAUSE (R250, R309). -/
def execPCause (len : Byte) (s : State) : Outcome State Fault Refusal :=
  .next (paramElement 7 len s)

/-- P.BEARERDATA (R251, R310). -/
def execPBearerdata (len : Byte) (s : State) : Outcome State Fault Refusal :=
  .next (paramElement 8 len s)

/-- (P.UNKNOWN) (R243). -/
def execPUnknown (id len : Byte) (s : State) : Outcome State Fault Refusal :=
  .next (unknownElement (decodeParamBody s.cfg s.ibuf id.toNat len.toNat) s)

/-- S.MSGID (R252, R311). -/
def execSMsgid (len : Byte) (s : State) : Outcome State Fault Refusal :=
  .next (subElement 0 len s)

/-- S.USERDATA (R253, R312). -/
def execSUserdata (len : Byte) (s : State) : Outcome State Fault Refusal :=
  .next (subElement 1 len s)

/-- S.RESPCODE (R254, R313). -/
def execSRespcode (len : Byte) (s : State) : Outcome State Fault Refusal :=
  .next (subElement 2 len s)

/-- S.MCTS (R255, R314). -/
def execSMcts (len : Byte) (s : State) : Outcome State Fault Refusal :=
  .next (subElement 3 len s)

/-- S.VPABS (R256, R315). -/
def execSVpabs (len : Byte) (s : State) : Outcome State Fault Refusal :=
  .next (subElement 4 len s)

/-- S.VPREL (R257, R316). -/
def execSVprel (len : Byte) (s : State) : Outcome State Fault Refusal :=
  .next (subElement 5 len s)

/-- S.DDTABS (R258, R317). -/
def execSDdtabs (len : Byte) (s : State) : Outcome State Fault Refusal :=
  .next (subElement 6 len s)

/-- S.DDTREL (R259, R318). -/
def execSDdtrel (len : Byte) (s : State) : Outcome State Fault Refusal :=
  .next (subElement 7 len s)

/-- S.PRIORITY (R260, R319). -/
def execSPriority (len : Byte) (s : State) : Outcome State Fault Refusal :=
  .next (subElement 8 len s)

/-- S.PRIVACY (R261, R320). -/
def execSPrivacy (len : Byte) (s : State) : Outcome State Fault Refusal :=
  .next (subElement 9 len s)

/-- S.REPLYOPT (R262, R321). -/
def execSReplyopt (len : Byte) (s : State) : Outcome State Fault Refusal :=
  .next (subElement 10 len s)

/-- S.MSGCOUNT (R263, R322). -/
def execSMsgcount (len : Byte) (s : State) : Outcome State Fault Refusal :=
  .next (subElement 11 len s)

/-- S.ALERT (R264, R323). -/
def execSAlert (len : Byte) (s : State) : Outcome State Fault Refusal :=
  .next (subElement 12 len s)

/-- S.LANGUAGE (R265, R324). -/
def execSLanguage (len : Byte) (s : State) : Outcome State Fault Refusal :=
  .next (subElement 13 len s)

/-- S.CALLBACK (R266, R325). -/
def execSCallback (len : Byte) (s : State) : Outcome State Fault Refusal :=
  .next (subElement 14 len s)

/-- S.DISPMODE (R267, R326). -/
def execSDispmode (len : Byte) (s : State) : Outcome State Fault Refusal :=
  .next (subElement 15 len s)

/-- (S.MULTIENC) (R271, R330). -/
def execSMultienc (len : Byte) (s : State) : Outcome State Fault Refusal :=
  .next (unimplementedElement 16 len s)

/-- S.DEPOSIT (R268, R327). -/
def execSDeposit (len : Byte) (s : State) : Outcome State Fault Refusal :=
  .next (subElement 17 len s)

/-- (S.SCPDATA) (R271, R330). -/
def execSScpdata (len : Byte) (s : State) : Outcome State Fault Refusal :=
  .next (unimplementedElement 18 len s)

/-- (S.SCPRESULT) (R271, R330). -/
def execSScpresult (len : Byte) (s : State) : Outcome State Fault Refusal :=
  .next (unimplementedElement 19 len s)

/-- S.MSGSTATUS (R269, R328). -/
def execSMsgstatus (len : Byte) (s : State) : Outcome State Fault Refusal :=
  .next (subElement 20 len s)

/-- S.TPFAIL (R270, R329). -/
def execSTpfail (len : Byte) (s : State) : Outcome State Fault Refusal :=
  .next (subElement 21 len s)

/-- (S.EVMN) (R271, R330). -/
def execSEvmn (len : Byte) (s : State) : Outcome State Fault Refusal :=
  .next (unimplementedElement 22 len s)

/-- (S.EVMNACK) (R271, R330). -/
def execSEvmnack (len : Byte) (s : State) : Outcome State Fault Refusal :=
  .next (unimplementedElement 23 len s)

/-- (S.UNKNOWN) (R271). -/
def execSUnknown (id len : Byte) (s : State) : Outcome State Fault Refusal :=
  .next (unknownElement (decodeSub s.cfg s.ibuf id.toNat len.toNat) s)

/-- UD.OCTET (R253, R312). -/
def execUdOctet (s : State) : Outcome State Fault Refusal :=
  .next (encodingElement 0 s)

/-- (UD.EPM) (R253, R312). -/
def execUdEpm (s : State) : Outcome State Fault Refusal :=
  .next (encodingElement 1 s)

/-- UD.ASCII7 (R253, R312). -/
def execUdAscii7 (s : State) : Outcome State Fault Refusal :=
  .next (encodingElement 2 s)

/-- UD.IA5 (R253, R312). -/
def execUdIa5 (s : State) : Outcome State Fault Refusal :=
  .next (encodingElement 3 s)

/-- UD.UNICODE (R253, R312). -/
def execUdUnicode (s : State) : Outcome State Fault Refusal :=
  .next (encodingElement 4 s)

/-- (UD.SHIFTJIS) (R253, R312). -/
def execUdShiftjis (s : State) : Outcome State Fault Refusal :=
  .next (encodingElement 5 s)

/-- (UD.KOREAN) (R253, R312). -/
def execUdKorean (s : State) : Outcome State Fault Refusal :=
  .next (encodingElement 6 s)

/-- UD.LATINHEBREW (R253, R312). -/
def execUdLatinhebrew (s : State) : Outcome State Fault Refusal :=
  .next (encodingElement 7 s)

/-- UD.LATIN (R253, R312). -/
def execUdLatin (s : State) : Outcome State Fault Refusal :=
  .next (encodingElement 8 s)

/-- UD.GSM7 (R253, R312). -/
def execUdGsm7 (s : State) : Outcome State Fault Refusal :=
  .next (encodingElement 9 s)

/-- (UD.GSMDCS) (R253, R312). -/
def execUdGsmdcs (s : State) : Outcome State Fault Refusal :=
  .next (encodingElement 10 s)

/-- (UD.UNDEFINED) (R253, R312). -/
def execUdUndefined (tag : BitVec 5) (s : State) : Outcome State Fault Refusal :=
  .next (encodingElement tag s)

/-- (ILLEGAL) (R92). -/
def execIllegal (_op : Byte) (s : State) : Outcome State Fault Refusal :=
  .next (illegalCommand s)

end Sys2Proof.Machine
end

