-- ==== Sys2Proof/Machine/Packer.lean ====
section
/-! DEFINITION. The GSM 7-bit pack and unpack engine (41_alphabet_pack7.md): septets LSB-first
(20_memory.md R63), the tables of the parameter record, PACK7, UNPACK7, and the escape septets. -/

namespace Sys2Proof.Machine

open Host (Outcome)

/-! ### Septets (R63): septet `q` is stream bits `7q` to `7q+6`; stream bit `k` is bit `k mod 8` of octet
`k div 8` -/

/-- The octet whose bit `j` is `f j`. -/
def octetOf (f : Nat → Bool) : Byte :=
  BitVec.ofBoolListLE [f 0, f 1, f 2, f 3, f 4, f 5, f 6, f 7]

/-- The septet whose bit `i` is `f i`. -/
def septetOf (f : Nat → Bool) : Septet :=
  BitVec.ofBoolListLE [f 0, f 1, f 2, f 3, f 4, f 5, f 6]

/-- `put7` for all septets at once: `n` septets take `ceil8(7n)` octets, unused high bits 0. -/
def packSeptets (us : List Septet) : List Byte :=
  (List.range (ceil8 (7 * us.length))).map (fun k =>
    octetOf (fun j => (us.getD ((8 * k + j) / 7) 0).getLsbD ((8 * k + j) % 7)))

/-- `get7(buf, q)`. -/
def septetAt (l : List Byte) (q : Nat) : Septet :=
  septetOf (fun i => (l.getD ((7 * q + i) / 8) 0).getLsbD ((7 * q + i) % 8))

/-! ### Tables (R161 to R164) -/

/-- `A8TO7[c]`. -/
def a8to7At (c : Config) (b : Byte) : Byte := c.a8to7.getD b.toNat 0

/-- `A7TO8[c]`. -/
def a7to8At (c : Config) (s : Septet) : Byte := c.a7to8.getD s.toNat 0

/-- `EXT7TO8[e]` where it is defined, else `NPC8` (R164). -/
def ext7to8At (c : Config) (s : Septet) : Byte := (c.ext7to8.lookup s).getD c.npc8

/-- `EXT7TO8` is defined at `e`. -/
def ext7to8Defined (c : Config) (s : Septet) : Bool := (c.ext7to8.lookup s).isSome

/-! ### PACK7 (R165) -/

/-- The septets of one character: an entry of 128 or more is the escape and its low 7 bits. -/
def charUnits (c : Config) (b : Byte) : List Septet :=
  if 128 ≤ (a8to7At c b).toNat then [27, (a8to7At c b).setWidth 7] else [(a8to7At c b).setWidth 7]

/-- The packer's loop: before each character, `7 * (q + length(units)) > 8 * cap` is OVERFLOW. -/
def packUnits (c : Config) (cap : Nat) : List Byte → List Septet → Except Kind (List Septet)
  | [], us => .ok us
  | b :: l, us =>
    if 8 * cap < 7 * (us.length + (charUnits c b).length) then .error .overflow
    else packUnits c cap l (us ++ charUnits c b)

/-- `PACK7` on a text: the packed octets and the septet count. -/
def pack7 (c : Config) (text : List Byte) (cap : Nat) : Except Kind (List Byte × Nat) :=
  match packUnits c cap text [] with
  | .error k => .error k
  | .ok us => .ok (packSeptets us, us.length)

/-- PACK7 (R165). -/
def execPack7 (s : State) : Outcome State Fault Refusal :=
  let s := start s
  .next (
    if ilenTooLong s || capTooLarge s s.arg1 then raise .pack7 .fault s
    else match pack7 s.cfg (input s) s.arg1.toNat with
      | .error k => raise .pack7 k s
      | .ok (l, q) => finish .ok
          { putOutput s.arg1.toNat l s with olen := toWord l.length, res0 := toWord q })

/-! ### UNPACK7 (R166) -/

/-- `if n >= cap then raise OVERFLOW ; OBUF[n] <- b ; n <- n + 1`. -/
def putChar (b : Byte) (t : TextWork) : Except Kind TextWork :=
  if t.cap ≤ t.out.length then .error .overflow else .ok { t with out := t.out ++ [b] }

/-- Septet 27: "not emitted directly but instead triggers reading one more 7-bit unit". -/
def escapeSeptet (t : TextWork) : Except Kind TextWork := .ok { t with esc := true }

/-- The septet after an escape: its extension character, or the placeholder. -/
def extensionSeptet (c : Config) (e : Septet) (t : TextWork) : Except Kind TextWork :=
  putChar (ext7to8At c e) { t with esc := false }

/-- One septet of the loop. -/
def takeSeptet (c : Config) (t : TextWork) (u : Septet) : Except Kind TextWork :=
  if t.esc then extensionSeptet c u t
  else if u = 27 then escapeSeptet t
  else putChar (a7to8At c u) t

/-- The end of the loop: an escape that is the last septet gives the placeholder. -/
def endText (c : Config) (t : TextWork) : Except Kind (List Byte) :=
  if t.esc then
    match putChar c.npc8 t with
    | .error k => .error k
    | .ok t => .ok t.out
  else .ok t.out

/-- The loop over the septets. -/
def takeSeptets (c : Config) : List Septet → TextWork → Except Kind TextWork
  | [], t => .ok t
  | u :: us, t =>
    match takeSeptet c t u with
    | .error k => .error k
    | .ok t => takeSeptets c us t

/-- `UNPACK7` on `count` septets of the octets `l`. -/
def unpack7 (c : Config) (l : List Byte) (count cap : Nat) : Except Kind (List Byte) :=
  if l.length < ceil8 (7 * count) then .error .fault
  else match takeSeptets c ((List.range count).map (septetAt l)) { cap := cap } with
    | .error k => .error k
    | .ok t => endText c t

/-- UNPACK7 (R166). -/
def execUnpack7 (s : State) : Outcome State Fault Refusal :=
  let s := start s
  .next (
    if ilenTooLong s || capTooLarge s s.arg1 then raise .unpack7 .fault s
    else match unpack7 s.cfg (input s) s.arg0.toNat s.arg1.toNat with
      | .error k => raise .unpack7 k s
      | .ok l => finish .ok { putOutput s.arg1.toNat l s with olen := toWord l.length })

/-! ### The escape septets as steps of the loop -/

/-- One step of the text loop on the running operation's locals; a raise ends the operation (log 11). -/
def textStep (f : TextWork → Except Kind TextWork) (s : State) : State :=
  match f s.work.text with
  | .error k => { raise s.work.op k s with work := {} }
  | .ok t => { s with work := { s.work with text := t } }

/-- ESC (R166). -/
def execEsc (s : State) : Outcome State Fault Refusal := .next (textStep escapeSeptet s)

/-- ESC.0C, form-feed (R164). -/
def execEsc0C (s : State) : Outcome State Fault Refusal := .next (textStep (extensionSeptet s.cfg 10) s)

/-- ESC.5E, caret (R164). -/
def execEsc5E (s : State) : Outcome State Fault Refusal := .next (textStep (extensionSeptet s.cfg 20) s)

/-- ESC.7B, left brace (R164). -/
def execEsc7B (s : State) : Outcome State Fault Refusal := .next (textStep (extensionSeptet s.cfg 40) s)

/-- ESC.7D, right brace (R164). -/
def execEsc7D (s : State) : Outcome State Fault Refusal := .next (textStep (extensionSeptet s.cfg 41) s)

/-- ESC.5C, backslash (R164). -/
def execEsc5C (s : State) : Outcome State Fault Refusal := .next (textStep (extensionSeptet s.cfg 47) s)

/-- ESC.5B, left bracket (R164). -/
def execEsc5B (s : State) : Outcome State Fault Refusal := .next (textStep (extensionSeptet s.cfg 60) s)

/-- ESC.7E, tilde (R164). -/
def execEsc7E (s : State) : Outcome State Fault Refusal := .next (textStep (extensionSeptet s.cfg 61) s)

/-- ESC.5D, right bracket (R164). -/
def execEsc5D (s : State) : Outcome State Fault Refusal := .next (textStep (extensionSeptet s.cfg 62) s)

/-- ESC.7C, pipe (R164). -/
def execEsc7C (s : State) : Outcome State Fault Refusal := .next (textStep (extensionSeptet s.cfg 64) s)

end Sys2Proof.Machine
end

