-- ==== Sys2Proof/Machine/AddressTime.lean ====
section
/-! DEFINITION. The semi-octet address codec and the timestamp codec (42_address_timestamp.md), in the
nibble order of 20_memory.md R64. -/

namespace Sys2Proof.Machine

open Host (Outcome)

/-- The low nibble `b[3:0]`: the first digit of a pair (R64). -/
def lowNibble (b : Byte) : Nat := b.toNat % 16

/-- The high nibble `b[7:4]`: the second digit of a pair (R64). -/
def highNibble (b : Byte) : Nat := b.toNat / 16

/-- The value of a digit character. -/
def digitVal (b : Byte) : Nat := b.toNat - 0x30

/-- The character of a digit. -/
def digitChar (n : Nat) : Byte := low8 (0x30 + n)

/-! ### Phone numbers (R180 to R183) -/

/-- Digit pairs as semi-octets, the first digit in the low nibble; an odd count is padded with 0xF. -/
def semiOctets : List Byte → List Byte
  | [] => []
  | [a] => [low8 (16 * 0xF + digitVal a)]
  | a :: b :: l => low8 (16 * digitVal b + digitVal a) :: semiOctets l

/-- The number starts with `+` (0x2B). -/
def isInternational (l : List Byte) : Bool := decide (l.head? = some 0x2B)

/-- The digits: the string less a leading `+`. -/
def addrDigits (l : List Byte) : List Byte := if isInternational l then l.tail else l

/-- The type-of-address octet the encoder chooses (R182). -/
def toaFor (l : List Byte) : Byte := if isInternational l then 0x91 else 0x81

/-- `ENCADDR` on a string: the semi-octets, the digit count, the TOA. -/
def encAddr (c : Config) (l : List Byte) : Except Kind (List Byte × Nat × Byte) :=
  if c.addrDigitsMax < (addrDigits l).length then .error .fault
  else if (addrDigits l).all isDigit = false then .error .fault
  else .ok (semiOctets (addrDigits l), (addrDigits l).length, toaFor l)

/-- ENCADDR (R180). -/
def execEncaddr (s : State) : Outcome State Fault Refusal :=
  let s := start s
  .next (
    if ilenTooLong s then raise .encaddr .fault s
    else match encAddr s.cfg (input s) with
      | .error k => raise .encaddr k s
      | .ok (l, d, toa) => finish .ok
          { putOutput s.cfg.obufCap l s with
            olen := toWord l.length, res0 := toWord d, res1 := toa.setWidth 32 })

/-- The number is international exactly when `TOA[6:4] = 0b001` (R182). -/
def toaInternational (toa : Byte) : Bool := decide (toa.extractLsb' 4 3 = 1)

/-- `OBUF[n] <- 0x2B ; n <- n + 1`. -/
def plusPrefix (t : TextWork) : TextWork := { t with out := t.out ++ [0x2B] }

/-- The semi-octet of digit `i`: low nibble for even `i`, high for odd. -/
def semiOctetAt (l : List Byte) (i : Nat) : Nat :=
  if i % 2 = 0 then lowNibble (l.getD (i / 2) 0) else highNibble (l.getD (i / 2) 0)

/-- The digit characters of the first `n` semi-octets; one above 9 has no character. -/
def digitChars (l : List Byte) (n : Nat) : Option (List Byte) :=
  (List.range n).mapM (fun i =>
    if 9 < semiOctetAt l i then none else some (digitChar (semiOctetAt l i)))

/-- `DECADDR` on semi-octets: the string, without its NUL. The tests come in the order FAULT,
OVERFLOW, UNSUPPORTED. -/
def decAddr (c : Config) (l : List Byte) (cnt : Nat) (toa : Byte) : Except Kind (List Byte) :=
  let t : TextWork := if toaInternational toa then plusPrefix {} else {}
  if l.length < (cnt + 1) / 2 then .error .fault
  else if c.addrStrCap < cnt + t.out.length + 1 then .error .overflow
  else match digitChars l cnt with
    | none => .error .unsupported
    | some ds => .ok (t.out ++ ds)

/-- DECADDR (R181): the string and one NUL; OLEN does not count the NUL. -/
def execDecaddr (s : State) : Outcome State Fault Refusal :=
  let s := start s
  .next (
    if ilenTooLong s then raise .decaddr .fault s
    else match decAddr s.cfg (input s) s.arg0.toNat (toaOperand s) with
      | .error k => raise .decaddr k s
      | .ok l => finish .ok
          { putOutput s.cfg.obufCap (l ++ [0]) s with olen := toWord l.length })

/-- TOA.INTERNATIONAL (R182): the decoded number is prefixed with `+`. -/
def execToaInternational (s : State) : Outcome State Fault Refusal :=
  .next { s with work := { s.work with text := plusPrefix s.work.text } }

/-! ### Timestamps (R184 to R187) -/

/-- The seven two-digit fields of the string stand at these positions (R184, R186). -/
def tsPositions : List Nat := [0, 3, 6, 9, 12, 15, 18]

/-- One field of the string as a swapped pair: tens in the low nibble. -/
def tsPair (l : List Byte) (k : Nat) : Option Nat :=
  if isDigit (l.getD k 0) && isDigit (l.getD (k + 1) 0) then
    some (16 * digitVal (l.getD (k + 1) 0) + digitVal (l.getD k 0))
  else none

/-- The separators of R186 stand where R184 tests them. -/
def tsSeparators (l : List Byte) : Bool :=
  decide (l.getD 2 0 = 0x2F) && decide (l.getD 5 0 = 0x2F) && decide (l.getD 8 0 = 0x2C) &&
  decide (l.getD 11 0 = 0x3A) && decide (l.getD 14 0 = 0x3A)

/-- The zone's sign character at position 17. -/
def tsSign (l : List Byte) : Bool :=
  decide (l.getD 17 0 = 0x2B) || decide (l.getD 17 0 = 0x2D)

/-- `ENCTS` on a string: seven octets; the zone octet's bit 3 is the sign (R187). -/
def encTs (l : List Byte) : Except Kind (List Byte) :=
  if l.length ≠ 20 then .error .fault
  else if tsSeparators l = false then .error .fault
  else if tsSign l = false then .error .fault
  else match tsPositions.mapM (tsPair l) with
    | none => .error .fault
    | some o =>
      if 8 ≤ (o.getD 6 0) % 16 then .error .fault
      else .ok ((o.set 6 (o.getD 6 0 + (if l.getD 17 0 = 0x2D then 8 else 0))).map low8)

/-- ENCTS (R184). -/
def execEncts (s : State) : Outcome State Fault Refusal :=
  let s := start s
  .next (
    if ilenTooLong s then raise .encts .fault s
    else match encTs (input s) with
      | .error k => raise .encts k s
      | .ok l => finish .ok { putOutput s.cfg.obufCap l s with olen := toWord l.length })

/-- The tens digit of field `j`: the low nibble, of which the zone uses three bits (R185, R187). -/
def tsTens (l : List Byte) (j : Nat) : Nat :=
  if j = 6 then lowNibble (l.getD j 0) % 8 else lowNibble (l.getD j 0)

/-- The units digit of field `j`: the high nibble. -/
def tsUnits (l : List Byte) (j : Nat) : Nat := highNibble (l.getD j 0)

/-- Every semi-octet of the field is a decimal digit. -/
def tsDecimal (l : List Byte) : Bool :=
  (List.range 7).all (fun j => decide (tsTens l j ≤ 9) && decide (tsUnits l j ≤ 9))

/-- The two characters of field `j`. -/
def tsField (l : List Byte) (j : Nat) : List Byte :=
  [digitChar (tsTens l j), digitChar (tsUnits l j)]

/-- `DECTS` on the field: the string of R186, or TS_UNKNOWN; it never fails (R185). -/
def decTs (c : Config) (l : List Byte) : List Byte :=
  if l.length ≠ 7 then c.tsUnknown
  else if tsDecimal l = false then c.tsUnknown
  else
    tsField l 0 ++ [0x2F] ++ tsField l 1 ++ [0x2F] ++ tsField l 2 ++ [0x2C] ++ tsField l 3 ++ [0x3A] ++
    tsField l 4 ++ [0x3A] ++ tsField l 5 ++ [if (l.getD 6 0).getLsbD 3 then 0x2D else 0x2B] ++
    tsField l 6

/-- DECTS (R185): the string and one NUL. -/
def execDects (s : State) : Outcome State Fault Refusal :=
  let s := start s
  .next (
    if ilenTooLong s then raise .dects .fault s
    else
      let l := decTs s.cfg (input s)
      finish .ok { putOutput s.cfg.obufCap (l ++ [0]) s with olen := toWord l.length })

end Sys2Proof.Machine
end

