-- ==== Sys2Proof/Machine/Gsm.lean ====
section
/-! DEFINITION. The GSM SMS-PDU codec (43_gsm_pdu.md): DECGSM in the nine steps of R201, ENCGSM (R215), and
the first-octet and data-coding-scheme elements as steps of DECGSM. -/

namespace Sys2Proof.Machine

open Host (Outcome)

/-! ### Steps of DECGSM: each acts on the locals, or raises -/

/-- `need(k)` (R13): the next `k` octets are within ILEN. -/
def need (ilen k : Nat) (w : GsmWork) : Except Kind Unit :=
  if ilen < w.pos + k then .error .fault else .ok ()

/-- `pos <- pos + k`. -/
def advance (k : Nat) (w : GsmWork) : GsmWork := { w with pos := w.pos + k }

/-- Skip `k` octets that are due. -/
def skipOctets (ilen k : Nat) (w : GsmWork) : Except Kind GsmWork :=
  match need ilen k w with
  | .error e => .error e
  | .ok _ => .ok (advance k w)

/-- Read one octet that is due. -/
def takeOctet (l : List Byte) (w : GsmWork) : Except Kind (Byte × GsmWork) :=
  match need l.length 1 w with
  | .error e => .error e
  | .ok _ => .ok (l.getD w.pos 0, advance 1 w)

/-- `IBUF[pos .. pos+k-1]`. -/
def octetsAt (l : List Byte) (pos k : Nat) : List Byte := (l.drop pos).take k

/-- Step 1 (R204): the service-centre-address block is skipped as `1 + L` octets. -/
def skipSca (sca : Bool) (l : List Byte) (w : GsmWork) : Except Kind GsmWork :=
  if sca then
    match takeOctet l w with
    | .error e => .error e
    | .ok (n, w) => .ok (advance n.toNat w)
  else .ok w

/-- Step 2 (R96): the message-type indicator. -/
def messageType (mti : BitVec 2) (w : GsmWork) : Except Kind GsmWork :=
  if mti = 0 then .ok { w with kind := 0 }
  else if mti = 1 then .ok { w with kind := 1 }
  else .error .unsupported

/-- Step 3: the message reference of a Submit. -/
def skipReference (ilen : Nat) (w : GsmWork) : Except Kind GsmWork :=
  if w.kind = 1 then skipOctets ilen 1 w else .ok w

/-- Step 4: the address (R98, R181). -/
def takeAddress (c : Config) (l : List Byte) (w : GsmWork) : Except Kind GsmWork :=
  match need l.length 2 w with
  | .error e => .error e
  | .ok _ =>
    let alen := (l.getD w.pos 0).toNat
    let toa := l.getD (w.pos + 1) 0
    let w := advance 2 w
    let nb := (alen + 1) / 2
    match need l.length nb w with
    | .error e => .error e
    | .ok _ =>
      match decAddr c (octetsAt l w.pos nb) alen toa with
      | .error e => .error e
      | .ok a => .ok { advance nb w with addr := a }

/-- Step 7 for a Deliver: the timestamp (R99, R185). -/
def takeTimestamp (c : Config) (l : List Byte) (w : GsmWork) : Except Kind GsmWork :=
  match need l.length 7 w with
  | .error e => .error e
  | .ok _ => .ok { advance 7 w with ts := decTs c (octetsAt l w.pos 7) }

/-- The width of the validity period from `fo[4:3]` (R205). -/
def vpWidth (vpf : BitVec 2) : Nat :=
  if vpf = 0 then 0 else if vpf = 2 then 1 else 7

/-- Step 7 for a Submit: the validity period is skipped (R205). -/
def skipValidity (ilen : Nat) (vpf : BitVec 2) (w : GsmWork) : Except Kind GsmWork :=
  if w.kind = 1 then skipOctets ilen (vpWidth vpf) w else .ok w

/-- Step 8 (R206): the header indicator is set. -/
def headerIndicator (_w : GsmWork) : Except Kind GsmWork := .error .unsupported

/-- The status-report request (R208): Submit only. -/
def statusReport (w : GsmWork) : Except Kind GsmWork :=
  .ok (if w.kind = 1 then { w with srr := 1 } else w)

/-- Copy `udl` octets as they are (R207). -/
def copyOctets (c : Config) (l : List Byte) (udl : Nat) (format : BitVec 2) (w : GsmWork) :
    Except Kind GsmWork :=
  if c.udOctetsMax < udl then .error .overflow
  else match need l.length udl w with
    | .error e => .error e
    | .ok _ => .ok { advance udl w with data := octetsAt l w.pos udl, format := format }

/-- Step 9 (R207): the user data, by the alphabet. -/
def userData (c : Config) (l : List Byte) (alpha : BitVec 2) (udl : Nat) (w : GsmWork) :
    Except Kind GsmWork :=
  if alpha = 0 then
    if c.textCharsMax < udl then .error .overflow
    else
      let nb := ceil8 (7 * udl)
      match need l.length nb w with
      | .error e => .error e
      | .ok _ =>
        match unpack7 c (octetsAt l w.pos nb) udl c.gsmDataCap with
        | .error e => .error e
        | .ok d => .ok { advance nb w with data := d, format := 0 }
  else if alpha = 1 then copyOctets c l udl 1 w
  else if alpha = 2 then
    if c.ucs2DecodeEn = false then .error .unsupported else copyOctets c l udl 3 w
  else .error .unsupported

/-- A data-coding scheme of alphabet `alpha` (R202): at step 6, before UDL is read, it selects the
alphabet; at step 9, once UDL is read, the user data is taken by it, and alphabet 3 is refused there. -/
def alphabet (c : Config) (l : List Byte) (alpha : BitVec 2) (w : GsmWork) : Except Kind GsmWork :=
  match w.udl with
  | none => .ok { w with alpha := alpha }
  | some n => userData c l alpha n.toNat w

/-- A data-coding scheme of another coding group (R202): refused at step 6. -/
def refusedGroup (_w : GsmWork) : Except Kind GsmWork := .error .unsupported

/-- The alphabet of a DCS octet, `none` for a refused coding group (R201 step 6). -/
def dcsAlphabet (d : Byte) : Option (BitVec 2) :=
  if d.extractLsb' 6 2 = 0 then some (d.extractLsb' 2 2)
  else if d.extractLsb' 4 4 = 0xF then some (if d.getLsbD 2 then 1 else 0)
  else none

/-- The DCS octet at whichever step it is met. -/
def dataCoding (c : Config) (l : List Byte) (d : Byte) (w : GsmWork) : Except Kind GsmWork :=
  match dcsAlphabet d with
  | none => refusedGroup w
  | some a => alphabet c l a w

/-- DECGSM's nine steps (R201) over the PDU's octets; the status of a failure is that of the first
failing test (R209). -/
def decGsm (c : Config) (l : List Byte) (sca : Bool) : Except Kind GsmWork := do
  let w ← skipSca sca l {}
  let (fo, w) ← takeOctet l w
  let w ← messageType (fo.extractLsb' 0 2) w
  let w ← skipReference l.length w
  let w ← takeAddress c l w
  let w ← skipOctets l.length 1 w
  let (dcs, w) ← takeOctet l w
  let w ← dataCoding c l dcs w
  let w ← if w.kind = 0 then takeTimestamp c l w else skipValidity l.length (fo.extractLsb' 3 2) w
  let (udl, w) ← takeOctet l w
  let w := { w with udl := some udl }
  let w ← if fo.getLsbD 6 then headerIndicator w else .ok w
  let w ← dataCoding c l dcs w
  if fo.getLsbD 5 then statusReport w else .ok w

/-- The result record after an OK (R208); octets it says nothing of are free values (log 7). -/
def gsmRecord (c : Config) (draw : Nat) (w : GsmWork) : GsmMsg where
  kind := w.kind
  addr := fillTo (Config.freeAddrTail draw) c.addrStrCap (w.addr ++ [0])
  addrLen := low8 w.addr.length
  format := w.format
  ts := fillTo (Config.freeTsTail draw) c.tsStrCap (w.ts ++ [0])
  tsLen := low8 w.ts.length
  data := fillTo (Config.freeDataTail draw) c.gsmDataCap w.data
  dataLen := low8 w.data.length
  srr := w.srr

/-- DECGSM (R201). -/
def execDecgsm (s : State) : Outcome State Fault Refusal :=
  let s := start s
  .next (
    if ilenTooLong s || flagsReserved s then raise .decgsm .fault s
    else match decGsm s.cfg (input s) (scaFlag s) with
      | .error k => raise .decgsm k s
      | .ok w => finish .ok
          { s with msgG := gsmRecord s.cfg s.free w, free := s.free + 1 })

/-! ### ENCGSM (R215 to R218) -/

/-- `emit(b)`. -/
def emit (c : Config) (b : Byte) (o : List Byte) : Except Kind (List Byte) :=
  if c.pduCap ≤ o.length then .error .overflow else .ok (o ++ [b])

/-- `emit` of each octet in turn. -/
def emitAll (c : Config) : List Byte → List Byte → Except Kind (List Byte)
  | [], o => .ok o
  | b :: l, o =>
    match emit c b o with
    | .error k => .error k
    | .ok o => emitAll c l o

/-- The string of an array and its length field; characters past the array are free values (log 16). -/
def recordString (a : List Byte) (len : Byte) : List Byte :=
  (List.range len.toNat).map (fun i => a.getD i (Config.freePastArray i))

/-- The octets before the address: the empty SCA block, the first octet (R216), the message reference. -/
def gsmHead (kind : Nat) (sca srr : Bool) : List Byte :=
  (if sca then [0x00] else []) ++
  (if kind = 0 then [0x00] else [if srr then 0x31 else 0x11, 0x00])

/-- The field before UDL: the relative validity period of a Submit, the timestamp of a Deliver. -/
def gsmTime (kind : Nat) (ts : List Byte) : Except Kind (List Byte) :=
  if kind = 1 then .ok [0xAD] else encTs ts

/-- UDL and the user data (R217): UDL is written as the raw count and, for the 7-bit alphabet,
re-written with the septet count. -/
def gsmPayload (c : Config) (enc : Nat) (text o : List Byte) : Except Kind (List Byte) := do
  let u := o.length
  let o ← emit c (low8 text.length) o
  if enc = 0 then
    let (p, q) ← pack7 c text c.udOctetsMax
    emitAll c p (o.set u (low8 q))
  else if c.udOctetsMax < text.length then .error .overflow
  else emitAll c text o

/-- ENCGSM over its operands (R215), in its order of checks (R218). -/
def encGsm (c : Config) (text : List Byte) (m : GsmMsg) (kind enc : Nat) (sca srr : Bool) :
    Except Kind (List Byte) := do
  if text.length = 0 then .error .fault
  else if c.textCharsMax < text.length then .error .unsupported
  else if kind ≠ 0 ∧ kind ≠ 1 then .error .unsupported
  else if enc ≠ 0 ∧ enc ≠ 1 then .error .unsupported
  else
    let o ← emitAll c (gsmHead kind sca srr) []
    let (a, d, toa) ← encAddr c (recordString m.addr m.addrLen)
    let o ← emitAll c ([low8 d, toa] ++ a ++ [0x00, if enc = 0 then 0x00 else 0x04]) o
    let t ← gsmTime kind (recordString m.ts m.tsLen)
    let o ← emitAll c t o
    gsmPayload c enc text o

/-- ENCGSM (R215). -/
def execEncgsm (s : State) : Outcome State Fault Refusal :=
  let s := start s
  .next (
    if ilenTooLong s || flagsReserved s then raise .encgsm .fault s
    else match encGsm s.cfg (input s) s.msgG s.arg0.toNat s.arg1.toNat (scaFlag s) (srrFlag s) with
      | .error k => raise .encgsm k s
      | .ok l => finish .ok { putOutput s.cfg.pduCap l s with olen := toWord l.length })

/-! ### The elements of the first octet and of the DCS, as steps of DECGSM -/

/-- One step of DECGSM on the running operation's locals; a raise ends the operation (log 11). -/
def gsmStep (f : GsmWork → Except Kind GsmWork) (s : State) : State :=
  match f s.work.gsm with
  | .error k => { raise s.work.op k s with work := {} }
  | .ok w => { s with work := { s.work with gsm := w } }

/-- MTI.DELIVER (R96). -/
def execMtiDeliver (s : State) : Outcome State Fault Refusal := .next (gsmStep (messageType 0) s)

/-- MTI.SUBMIT (R96). -/
def execMtiSubmit (s : State) : Outcome State Fault Refusal := .next (gsmStep (messageType 1) s)

/-- (MTI.10): raise UNSUPPORTED (R96). -/
def execMti10 (s : State) : Outcome State Fault Refusal := .next (gsmStep (messageType 2) s)

/-- (MTI.11): raise UNSUPPORTED (R96). -/
def execMti11 (s : State) : Outcome State Fault Refusal := .next (gsmStep (messageType 3) s)

/-- VPF.NONE (R205). -/
def execVpfNone (s : State) : Outcome State Fault Refusal :=
  .next (gsmStep (skipValidity s.ilen.toNat 0) s)

/-- VPF.RELATIVE (R205). -/
def execVpfRelative (s : State) : Outcome State Fault Refusal :=
  .next (gsmStep (skipValidity s.ilen.toNat 2) s)

/-- VPF.ENHANCED (R205). -/
def execVpfEnhanced (s : State) : Outcome State Fault Refusal :=
  .next (gsmStep (skipValidity s.ilen.toNat 1) s)

/-- VPF.ABSOLUTE (R205). -/
def execVpfAbsolute (s : State) : Outcome State Fault Refusal :=
  .next (gsmStep (skipValidity s.ilen.toNat 3) s)

/-- UDHI: raise UNSUPPORTED (R206). -/
def execUdhi (s : State) : Outcome State Fault Refusal := .next (gsmStep headerIndicator s)

/-- SRR (R208). -/
def execSrr (s : State) : Outcome State Fault Refusal := .next (gsmStep statusReport s)

/-- DCS.G0.7BIT (R97). -/
def execDcsG07bit (s : State) : Outcome State Fault Refusal :=
  .next (gsmStep (alphabet s.cfg (input s) 0) s)

/-- DCS.G0.8BIT (R97). -/
def execDcsG08bit (s : State) : Outcome State Fault Refusal :=
  .next (gsmStep (alphabet s.cfg (input s) 1) s)

/-- DCS.G0.UCS2 (R97, R207). -/
def execDcsG0Ucs2 (s : State) : Outcome State Fault Refusal :=
  .next (gsmStep (alphabet s.cfg (input s) 2) s)

/-- (DCS.G0.RESERVED): selected at step 6, raise UNSUPPORTED at step 9 (R202). -/
def execDcsG0Reserved (s : State) : Outcome State Fault Refusal :=
  .next (gsmStep (alphabet s.cfg (input s) 3) s)

/-- DCS.GF.7BIT (R97). -/
def execDcsGF7bit (s : State) : Outcome State Fault Refusal :=
  .next (gsmStep (alphabet s.cfg (input s) 0) s)

/-- DCS.GF.8BIT (R97). -/
def execDcsGF8bit (s : State) : Outcome State Fault Refusal :=
  .next (gsmStep (alphabet s.cfg (input s) 1) s)

/-- (DCS.G01): raise UNSUPPORTED (R202). -/
def execDcsG01 (s : State) : Outcome State Fault Refusal := .next (gsmStep refusedGroup s)

/-- (DCS.G10): raise UNSUPPORTED (R202). -/
def execDcsG10 (s : State) : Outcome State Fault Refusal := .next (gsmStep refusedGroup s)

/-- (DCS.G1100): raise UNSUPPORTED (R202). -/
def execDcsG1100 (s : State) : Outcome State Fault Refusal := .next (gsmStep refusedGroup s)

/-- (DCS.G1101): raise UNSUPPORTED (R202). -/
def execDcsG1101 (s : State) : Outcome State Fault Refusal := .next (gsmStep refusedGroup s)

/-- (DCS.G1110): raise UNSUPPORTED (R202). -/
def execDcsG1110 (s : State) : Outcome State Fault Refusal := .next (gsmStep refusedGroup s)

end Sys2Proof.Machine
end

