-- ==== Sys2Proof/Machine/Dispatch.lean ====
section
/-! DEFINITION. The dispatch: one arm per constructor of Instr, each one direct call of its meaning. -/

namespace Sys2Proof.Machine

open Host (Outcome)

def exec (i : Instr) (s : State) : Host.Outcome State Fault Refusal :=
  match i with
  | .rcinit => Sys2Proof.Machine.execRcinit s
  | .wcinit => Sys2Proof.Machine.execWcinit s
  | .rdbits => Sys2Proof.Machine.execRdbits s
  | .wrbits => Sys2Proof.Machine.execWrbits s
  | .skipb => Sys2Proof.Machine.execSkipb s
  | .flush => Sys2Proof.Machine.execFlush s
  | .rcseek => Sys2Proof.Machine.execRcseek s
  | .wcpatch => Sys2Proof.Machine.execWcpatch s
  | .pack7 => Sys2Proof.Machine.execPack7 s
  | .unpack7 => Sys2Proof.Machine.execUnpack7 s
  | .encaddr => Sys2Proof.Machine.execEncaddr s
  | .decaddr => Sys2Proof.Machine.execDecaddr s
  | .encts => Sys2Proof.Machine.execEncts s
  | .dects => Sys2Proof.Machine.execDects s
  | .encgsm => Sys2Proof.Machine.execEncgsm s
  | .decgsm => Sys2Proof.Machine.execDecgsm s
  | .enccdma => Sys2Proof.Machine.execEnccdma s
  | .deccdma => Sys2Proof.Machine.execDeccdma s
  | .illegal op => Sys2Proof.Machine.execIllegal op s
  | .mtiDeliver => Sys2Proof.Machine.execMtiDeliver s
  | .mtiSubmit => Sys2Proof.Machine.execMtiSubmit s
  | .mti10 => Sys2Proof.Machine.execMti10 s
  | .mti11 => Sys2Proof.Machine.execMti11 s
  | .vpfNone => Sys2Proof.Machine.execVpfNone s
  | .vpfRelative => Sys2Proof.Machine.execVpfRelative s
  | .vpfEnhanced => Sys2Proof.Machine.execVpfEnhanced s
  | .vpfAbsolute => Sys2Proof.Machine.execVpfAbsolute s
  | .udhi => Sys2Proof.Machine.execUdhi s
  | .srr => Sys2Proof.Machine.execSrr s
  | .dcsG07bit => Sys2Proof.Machine.execDcsG07bit s
  | .dcsG08bit => Sys2Proof.Machine.execDcsG08bit s
  | .dcsG0Ucs2 => Sys2Proof.Machine.execDcsG0Ucs2 s
  | .dcsG0Reserved => Sys2Proof.Machine.execDcsG0Reserved s
  | .dcsGF7bit => Sys2Proof.Machine.execDcsGF7bit s
  | .dcsGF8bit => Sys2Proof.Machine.execDcsGF8bit s
  | .dcsG01 => Sys2Proof.Machine.execDcsG01 s
  | .dcsG10 => Sys2Proof.Machine.execDcsG10 s
  | .dcsG1100 => Sys2Proof.Machine.execDcsG1100 s
  | .dcsG1101 => Sys2Proof.Machine.execDcsG1101 s
  | .dcsG1110 => Sys2Proof.Machine.execDcsG1110 s
  | .toaInternational => Sys2Proof.Machine.execToaInternational s
  | .fmtPointToPoint => Sys2Proof.Machine.execFmtPointToPoint s
  | .fmtBroadcast => Sys2Proof.Machine.execFmtBroadcast s
  | .fmtAcknowledge => Sys2Proof.Machine.execFmtAcknowledge s
  | .fmtUndefined value => Sys2Proof.Machine.execFmtUndefined value s
  | .pTeleservice len => Sys2Proof.Machine.execPTeleservice len s
  | .pServcat len => Sys2Proof.Machine.execPServcat len s
  | .pOrigaddr len => Sys2Proof.Machine.execPOrigaddr len s
  | .pOrigsub len => Sys2Proof.Machine.execPOrigsub len s
  | .pDestaddr len => Sys2Proof.Machine.execPDestaddr len s
  | .pDestsub len => Sys2Proof.Machine.execPDestsub len s
  | .pBearerreply len => Sys2Proof.Machine.execPBearerreply len s
  | .pCause len => Sys2Proof.Machine.execPCause len s
  | .pBearerdata len => Sys2Proof.Machine.execPBearerdata len s
  | .pUnknown id len => Sys2Proof.Machine.execPUnknown id len s
  | .sMsgid len => Sys2Proof.Machine.execSMsgid len s
  | .sUserdata len => Sys2Proof.Machine.execSUserdata len s
  | .sRespcode len => Sys2Proof.Machine.execSRespcode len s
  | .sMcts len => Sys2Proof.Machine.execSMcts len s
  | .sVpabs len => Sys2Proof.Machine.execSVpabs len s
  | .sVprel len => Sys2Proof.Machine.execSVprel len s
  | .sDdtabs len => Sys2Proof.Machine.execSDdtabs len s
  | .sDdtrel len => Sys2Proof.Machine.execSDdtrel len s
  | .sPriority len => Sys2Proof.Machine.execSPriority len s
  | .sPrivacy len => Sys2Proof.Machine.execSPrivacy len s
  | .sReplyopt len => Sys2Proof.Machine.execSReplyopt len s
  | .sMsgcount len => Sys2Proof.Machine.execSMsgcount len s
  | .sAlert len => Sys2Proof.Machine.execSAlert len s
  | .sLanguage len => Sys2Proof.Machine.execSLanguage len s
  | .sCallback len => Sys2Proof.Machine.execSCallback len s
  | .sDispmode len => Sys2Proof.Machine.execSDispmode len s
  | .sMultienc len => Sys2Proof.Machine.execSMultienc len s
  | .sDeposit len => Sys2Proof.Machine.execSDeposit len s
  | .sScpdata len => Sys2Proof.Machine.execSScpdata len s
  | .sScpresult len => Sys2Proof.Machine.execSScpresult len s
  | .sMsgstatus len => Sys2Proof.Machine.execSMsgstatus len s
  | .sTpfail len => Sys2Proof.Machine.execSTpfail len s
  | .sEvmn len => Sys2Proof.Machine.execSEvmn len s
  | .sEvmnack len => Sys2Proof.Machine.execSEvmnack len s
  | .sUnknown id len => Sys2Proof.Machine.execSUnknown id len s
  | .udOctet => Sys2Proof.Machine.execUdOctet s
  | .udEpm => Sys2Proof.Machine.execUdEpm s
  | .udAscii7 => Sys2Proof.Machine.execUdAscii7 s
  | .udIa5 => Sys2Proof.Machine.execUdIa5 s
  | .udUnicode => Sys2Proof.Machine.execUdUnicode s
  | .udShiftjis => Sys2Proof.Machine.execUdShiftjis s
  | .udKorean => Sys2Proof.Machine.execUdKorean s
  | .udLatinhebrew => Sys2Proof.Machine.execUdLatinhebrew s
  | .udLatin => Sys2Proof.Machine.execUdLatin s
  | .udGsm7 => Sys2Proof.Machine.execUdGsm7 s
  | .udGsmdcs => Sys2Proof.Machine.execUdGsmdcs s
  | .udUndefined tag => Sys2Proof.Machine.execUdUndefined tag s
  | .esc => Sys2Proof.Machine.execEsc s
  | .esc0C => Sys2Proof.Machine.execEsc0C s
  | .esc5E => Sys2Proof.Machine.execEsc5E s
  | .esc7B => Sys2Proof.Machine.execEsc7B s
  | .esc7D => Sys2Proof.Machine.execEsc7D s
  | .esc5C => Sys2Proof.Machine.execEsc5C s
  | .esc5B => Sys2Proof.Machine.execEsc5B s
  | .esc7E => Sys2Proof.Machine.execEsc7E s
  | .esc5D => Sys2Proof.Machine.execEsc5D s
  | .esc7C => Sys2Proof.Machine.execEsc7C s

end Sys2Proof.Machine
end

