-- ==== Sys2Proof/Machine/Step.lean ====
section
/-! DEFINITION. One step: the host has written CMD, and the block runs the whole operation (R22, R40, R67,
log 13). -/

namespace Sys2Proof.Machine

open Host (Outcome)

/-- One step. With nothing placed in `sel` (always so in the hardware, log 11) it is the operation that
CMD selects; a CMD whose reserved bits are not 0 runs none and is the illegal command (R92). With a
wire-format word in `sel` it is that element, taken out of `sel`. -/
def step (s : State) : Host.Outcome State Fault Refusal :=
  match s.sel with
  | none =>
    match decodeAt .cmd s.cmd with
    | .ok i => exec i s
    | .error _ => .next (illegalCommand s)
  | some (f, w) =>
    match decodeAt f w with
    | .ok i => exec i { s with sel := none }
    | .error _ => .refused .noSuchElement

/-- `s` with the instruction of `nbits` bits `w` where step takes its next instruction from: a command
word in CMD, a wire-format word in `sel`. -/
def State.withFetchWord (s : State) (nbits w : Nat) : State :=
  if nbits = 32 then { s with cmd := BitVec.ofNat 32 w, sel := none }
  else match formatOfWord nbits w with
    | none => s
    | some f => { s with sel := some (f, BitVec.ofNat 32 w) }

end Sys2Proof.Machine
end

