-- ==== Sys2Proof/Machine/Port.lean ====
section
/-! DEFINITION. The host port: what the host may do between operations (10_state.md R21 to R24, R33; 20_memory.md
R69, R71; 70_reset_and_hazards.md R382), and the boundary calls of 30_encoding.md R93. How the host reaches the
registers is not fixed (R69): each access is a function of the state (log 26). STATUS, DIAG and OBUF are
read-only to the host: they have no write here. -/

namespace Sys2Proof.Machine

open Host (Outcome)

/-- Write `G[i]` (R21): the host may write all eight. -/
def hostWriteG (i : Fin 8) (v : Word) (s : State) : State :=
  match i with
  | 0 => { s with ilen := v }
  | 1 => { s with arg0 := v }
  | 2 => { s with arg1 := v }
  | 3 => { s with arg2 := v }
  | 4 => { s with olen := v }
  | 5 => { s with res0 := v }
  | 6 => { s with res1 := v }
  | 7 => { s with g7 := v }

/-- Read `G[i]` (R21). -/
def hostReadG (i : Fin 8) (s : State) : Word :=
  match i with
  | 0 => s.ilen
  | 1 => s.arg0
  | 2 => s.arg1
  | 3 => s.arg2
  | 4 => s.olen
  | 5 => s.res0
  | 6 => s.res1
  | 7 => s.g7

/-- Write octet `i` of IBUF (R24): there is none at IBUF_CAP or above. -/
def hostWriteIbuf (i : Nat) (b : Byte) (s : State) : Outcome State Fault Refusal :=
  if i < s.cfg.ibufCap then .next { s with ibuf := memWrite s.ibuf i b } else .fault (.noSuchOctet i)

/-- Read octet `i` of OBUF (R24): there is none at OBUF_CAP or above. -/
def hostReadObuf (i : Nat) (s : State) : Except Fault Byte :=
  if i < s.cfg.obufCap then .ok (memRead s.obuf i) else .error (.noSuchOctet i)

/-- `IBUF <- l` (R93, R382 (a)): the octets of `l` that IBUF has a place for are put there, from index 0; an octet
past IBUF_CAP is not (R60, R61; log 20). -/
def hostLoadIbuf (l : List Byte) (s : State) : State :=
  { s with ibuf := memSetPrefix s.ibuf (l.take s.cfg.ibufCap) }

/-- Write MSG.G (R30), its arrays kept at their capacities. -/
def hostWriteMsgG (m : GsmMsg) (s : State) : State := { s with msgG := fitMsgG s.cfg m }

/-- Write MSG.C (R31). -/
def hostWriteMsgC (m : CdmaPdu) (s : State) : State := { s with msgC := m }

/-- Write CMD: "the only way to start an operation" (R22). The block runs the whole operation before the
host acts again (R67, R71). -/
def hostWriteCmd (v : Word) (s : State) : Outcome State Fault Refusal := step { s with cmd := v, sel := none }

/-- The protocol argument of the boundary calls (R93). -/
inductive Protocol where
  | gsm
  | cdma
  /-- "Any other protocol value, Cell-Broadcast included". -/
  | other
  deriving DecidableEq, Repr

/-- The pseudo-operation `Decode(protocol, rawBytes, length)` (R93): `IBUF <- rawBytes; ILEN <- length`, then
DECGSM or DECCDMA. A `length` above IBUF_CAP ends FAULT, by the operation's own check (R91). -/
def boundaryDecode (p : Protocol) (raw : List Byte) (length : Word) (s : State) : Outcome State Fault Refusal :=
  match p with
  | .other => .refused .unsupportedProtocol
  | .gsm => hostWriteCmd 0x31 (hostWriteG 0 length (hostLoadIbuf raw s))
  | .cdma => hostWriteCmd 0x41 (hostWriteG 0 length (hostLoadIbuf raw s))

/-- The number of characters of a payload, as far as 32 bits can hold it. -/
def hostCount (l : List Byte) : Word := toWord (min l.length 0xFFFFFFFF)

/-- An address string put into MSG.G.addr and MSG.G.addrLen (R93, R382 (c)): a length above 255 is held as 255
(log 26), so that it is not taken for a shorter string. -/
def hostAddress (dest : List Byte) (m : GsmMsg) : GsmMsg :=
  { m with addr := dest, addrLen := low8 (min dest.length 255) }

/-- The pseudo-operation `Encode(payload, destination, protocolHint, messageKind)` (R93): with the GSM hint it
loads the payload, the address, the kind and the encoding and runs ENCGSM; with the CDMA hint the host has
built MSG.C (D31) and it runs ENCCDMA. -/
def boundaryEncode (p : Protocol) (payload dest : List Byte) (kind enc : Word) (s : State) :
    Outcome State Fault Refusal :=
  match p with
  | .other => .refused .unsupportedProtocol
  | .cdma => hostWriteCmd 0x40 s
  | .gsm =>
    hostWriteCmd 0x30 (hostWriteG 2 enc (hostWriteG 1 kind
      (hostWriteMsgG (hostAddress dest s.msgG) (hostWriteG 0 (hostCount payload) (hostLoadIbuf payload s)))))

end Sys2Proof.Machine
end

