-- ==== Sys2Proof/Safety.lean ====
section
/-! DEFINITION. What a good state is, what a raise may change, and the vocabulary the claims use for buffers.
Rule numbers R<n> are those of spec/. -/

namespace Sys2Proof.Machine

/-- The state invariant: the parameters are admissible (R9); both buffers are in canonical form and within their
capacities (R24, R61); both cursors are within theirs (R25, R26); the reserved bits of STATUS and DIAG read as 0
(R23, R33); the arrays of MSG.G have their capacities (R30). -/
structure State.Inv (s : State) : Prop where
  params : s.cfg.wf = true
  ibufForm : Memory.wf s.ibuf = true
  ibufBound : memBelow s.cfg.ibufCap s.ibuf = true
  obufForm : Memory.wf s.obuf = true
  obufBound : memBelow s.cfg.obufCap s.obuf = true
  rcCap : s.rc.cap ≤ s.cfg.ibufCap
  rcPos : s.rc.pos ≤ 8 * s.rc.cap
  wcCap : s.wc.cap ≤ s.cfg.obufCap
  wcPos : s.wc.pos ≤ 8 * s.wc.cap
  statusKind : s.status.toNat < 4
  diagBits : s.diag.toNat < 32
  addrArray : s.msgG.addr.length = s.cfg.addrStrCap
  tsArray : s.msgG.ts.length = s.cfg.tsStrCap
  dataArray : s.msgG.data.length = s.cfg.gsmDataCap

/-- `t` is `s` after a raise of kind `k` inside the operation `op` (R352): STATUS takes the kind; CMD, DIAG, IBUF,
the operand registers, G[7] and the parameters keep their value; of OBUF, OLEN, RES0, RES1, MSG.G and MSG.C only
what `op` names as its result may change; the cursor `op` uses is closed and nothing else of a cursor changes: `s` is
the state at the raise, with the cursor as the operation's steps had left it. Where R352 leaves room this is the model's
reading: log 6, log 8, log 9, log 21, log 22. -/
def Raised (op : Running) (k : Kind) (s t : State) : Prop :=
  t.status = kindCode k ∧ t.cfg = s.cfg ∧ t.cmd = s.cmd ∧ t.diag = s.diag ∧ t.ilen = s.ilen ∧
  t.arg0 = s.arg0 ∧ t.arg1 = s.arg1 ∧ t.arg2 = s.arg2 ∧ t.g7 = s.g7 ∧ t.ibuf = s.ibuf ∧ t.sel = s.sel ∧
  (∀ a, outputCap op s ≤ a → memRead t.obuf a = memRead s.obuf a) ∧
  (writesOlen op = false → t.olen = s.olen) ∧ (writesRes0 op = false → t.res0 = s.res0) ∧
  (writesRes1 op = false → t.res1 = s.res1) ∧ (op ≠ .decgsm → t.msgG = s.msgG) ∧
  (op ≠ .deccdma → t.msgC = s.msgC) ∧
  t.rc = (if op = .deccdma then { s.rc with isOpen := false } else s.rc) ∧
  t.wc = (if op = .enccdma then { s.wc with isOpen := false } else s.wc)

/-- The two states hold the same operands of the composite operation `i` (R90, R21), the same parameters, and the same
draw of the free values. -/
def SameOperands (i : Instr) (s s' : State) : Prop :=
  s.cfg = s'.cfg ∧ s.free = s'.free ∧
  (i ≠ .enccdma → s.ilen = s'.ilen ∧ ∀ k, k < s.ilen.toNat → memRead s.ibuf k = memRead s'.ibuf k) ∧
  (i ∈ [Instr.unpack7, .decaddr, .encgsm] → s.arg0 = s'.arg0) ∧
  (i ∈ [Instr.pack7, .unpack7, .decaddr, .encgsm] → s.arg1 = s'.arg1) ∧
  (i ∈ [Instr.encgsm, .decgsm] → s.arg2 = s'.arg2) ∧
  (i = .encgsm → s.msgG = s'.msgG) ∧ (i = .enccdma → s.msgC = s'.msgC)

/-- OBUF begins with `l`. -/
def OutputIs (l : List Byte) (t : State) : Prop := ∀ k, k < l.length → memRead t.obuf k = l.getD k 0

/-- Octets of OBUF at index `cap` and above are as before (R61). -/
def OutputKeptFrom (cap : Nat) (s t : State) : Prop := ∀ a, cap ≤ a → memRead t.obuf a = memRead s.obuf a

/-- The state an outcome goes on with; the state before, where it is none. -/
def nextOr (o : Host.Outcome State Fault Refusal) (s : State) : State :=
  match o with
  | .next t => t
  | _ => s

/-- The host copies the output of the last operation to IBUF and sets ILEN to OLEN. -/
def State.looped (s : State) : State := { s with ibuf := s.obuf, ilen := s.olen }

/-- The host runs WRBITS for each (value, width) in turn. -/
def writeSeq : List (Word × Nat) → State → State
  | [], s => s
  | (v, n) :: l, s =>
    let u : State := { s with arg0 := BitVec.ofNat 32 n, arg1 := v }
    writeSeq l (nextOr (exec .wrbits u) u)

/-- The host runs RDBITS for each width in turn: the values of RES0, with the final state. -/
def readSeq : List Nat → State → List Word × State
  | [], s => ([], s)
  | n :: l, s =>
    let u : State := { s with arg0 := BitVec.ofNat 32 n }
    let t := nextOr (exec .rdbits u) u
    let r := readSeq l t
    (t.res0 :: r.1, r.2)

end Sys2Proof.Machine
end

