-- ==== Sys2Proof/Wire.lean ====
section
/-! DEFINITION. The two wire formats as plain lists, for the claims to be stated in: what octets and bits a value
IS on the wire, with no cursor, no loop and no capacity. The machine never uses this file. Rule numbers R<n> are
those of spec/. -/

namespace Sys2Proof.Wire

open Machine

/-! ### GSM text (R63, R164, R166) -/

/-- The septets of a text: one for each character, two for one that needs the escape (R165). -/
def septetsOf (c : Config) (text : List Byte) : List Septet := text.flatMap (charUnits c)

/-- The characters of a run of septets (R166): an escape and the septet after it are one character; a lone
escape at the end is the placeholder. -/
def unescape (c : Config) : List Septet → List Byte
  | [] => []
  | [u] => if u = 27 then [c.npc8] else [a7to8At c u]
  | u :: v :: l =>
    if u = 27 then ext7to8At c v :: unescape c l else a7to8At c u :: unescape c (v :: l)

/-- The first `n` septets of a run of octets. -/
def septets (l : List Byte) (n : Nat) : List Septet := (List.range n).map (septetAt l)

/-- R167's `norm`: a character with no 7-bit equivalent becomes the placeholder. -/
def norm (c : Config) (b : Byte) : Byte := if a8to7At c b = c.npc7 then c.npc8 else b

/-- What R167 requires of the tables: the placeholder's septet reads back as the placeholder, and each mapped code
reads back as itself, through A7TO8 or, with an entry of 128 or more, through EXT7TO8. -/
def TablesInverse (c : Config) : Prop :=
  c.npc7.toNat < 128 ∧ c.npc7 ≠ 27 ∧ a7to8At c (c.npc7.setWidth 7) = c.npc8 ∧
  ∀ b : Byte, a8to7At c b ≠ c.npc7 →
    if (a8to7At c b).toNat < 128 then
      a8to7At c b ≠ 27 ∧ a7to8At c ((a8to7At c b).setWidth 7) = b
    else ext7to8At c ((a8to7At c b).setWidth 7) = b

/-! ### Semi-octets, addresses, timestamps (R64, R180 to R187) -/

/-- The value of semi-octet `i`: the low nibble of octet `i/2` first. -/
def nibble (l : List Byte) (i : Nat) : Nat :=
  if i % 2 = 0 then (l.getD (i / 2) 0).toNat % 16 else (l.getD (i / 2) 0).toNat / 16

/-- The character of a decimal digit. -/
def digit (n : Nat) : Byte := BitVec.ofNat 8 (0x30 + n)

/-- `n` semi-octets as digit characters. -/
def digits (l : List Byte) (n : Nat) : List Byte := (List.range n).map (fun i => digit (nibble l i))

/-- The prefix of an international number, decided by `TOA[6:4]` (R182). -/
def plus (toa : Byte) : List Byte := if toa.toNat / 16 % 8 = 1 then [0x2B] else []

/-- Decimal digits as swapped pairs, an odd count filled with 0xF (R180). -/
def swapped (ds : List Nat) : List Byte :=
  (List.range ((ds.length + 1) / 2)).map (fun j =>
    BitVec.ofNat 8 (16 * ds.getD (2 * j + 1) 15 + ds.getD (2 * j) 0))

/-- A character `0` to `9`. -/
def IsDigit (b : Byte) : Prop := 0x30 ≤ b.toNat ∧ b.toNat ≤ 0x39

/-- The digits of an address string: what follows an optional `+`. -/
def addrBody : List Byte → List Byte
  | [] => []
  | b :: l => if b = 0x2B then l else b :: l

/-- A phone-number string ENCADDR accepts (R180). -/
def AddressString (c : Config) (l : List Byte) : Prop :=
  (addrBody l).length ≤ c.addrDigitsMax ∧ ∀ b ∈ addrBody l, IsDigit b

/-- The type-of-address octet of an address string (R182). -/
def toaOf (l : List Byte) : Byte := if l.head? = some 0x2B then 0x91 else 0x81

/-- The semi-octets of an address string. -/
def addrOctets (l : List Byte) : List Byte := swapped ((addrBody l).map (fun b => b.toNat - 0x30))

/-- A timestamp string (R186) ENCTS accepts (R184): the separators, the sign, digits at the seven fields, and a
zone tens digit of 7 or less. -/
def TimestampString (l : List Byte) : Prop :=
  l.length = 20 ∧ l.getD 2 0 = 0x2F ∧ l.getD 5 0 = 0x2F ∧ l.getD 8 0 = 0x2C ∧ l.getD 11 0 = 0x3A ∧
  l.getD 14 0 = 0x3A ∧ (l.getD 17 0 = 0x2B ∨ l.getD 17 0 = 0x2D) ∧
  (∀ k ∈ [0, 3, 6, 9, 12, 15, 18], IsDigit (l.getD k 0) ∧ IsDigit (l.getD (k + 1) 0)) ∧
  (l.getD 18 0).toNat < 0x38

/-- The seven octets of a timestamp string (R184, R187): tens in the low nibble; the sign of the zone in bit 3 of
the last. -/
def tsOctets (l : List Byte) : List Byte :=
  [0, 3, 6, 9, 12, 15, 18].map (fun k =>
    BitVec.ofNat 8 (16 * ((l.getD (k + 1) 0).toNat - 0x30) + ((l.getD k 0).toNat - 0x30) +
      (if k = 18 ∧ l.getD 17 0 = 0x2D then 8 else 0)))

/-- The octets of a timestamp field are decimal: every semi-octet at most 9, the zone's tens taken without its
sign bit (R185). -/
def Decimal (l : List Byte) : Prop := ∀ i, i < 14 → i ≠ 12 → nibble l i ≤ 9

/-- The string of a decimal timestamp field (R185, R186). -/
def tsString (l : List Byte) : List Byte :=
  digits (l.drop 0) 2 ++ [0x2F] ++ digits (l.drop 1) 2 ++ [0x2F] ++ digits (l.drop 2) 2 ++ [0x2C] ++
  digits (l.drop 3) 2 ++ [0x3A] ++ digits (l.drop 4) 2 ++ [0x3A] ++ digits (l.drop 5) 2 ++
  [if 8 ≤ nibble l 12 then 0x2D else 0x2B] ++ [digit (nibble l 12 % 8), digit (nibble l 13)]

/-! ### The GSM PDU (R94) -/

/-- The fields of a PDU, in the order of R94. -/
structure GsmFields where
  sca : List Byte
  fo : Byte
  mr : List Byte
  alen : Byte
  toa : Byte
  adr : List Byte
  pid : Byte
  dcs : Byte
  time : List Byte
  udl : Byte
  ud : List Byte

/-- The octets of the PDU up to the protocol identifier. -/
def GsmFields.head (f : GsmFields) : List Byte :=
  f.sca ++ [f.fo] ++ f.mr ++ [f.alen, f.toa] ++ f.adr ++ [f.pid]

/-- The whole PDU. -/
def GsmFields.octets (f : GsmFields) : List Byte := f.head ++ [f.dcs] ++ f.time ++ [f.udl] ++ f.ud

/-- The message type `fo[1:0]` (R96). -/
def GsmFields.mti (f : GsmFields) : Nat := f.fo.toNat % 4

/-- The alphabet of a DCS octet (R97), none for a refused coding group. -/
def alphabetOf (dcs : Byte) : Option Nat :=
  if dcs.toNat / 64 = 0 then some (dcs.toNat / 4 % 4)
  else if dcs.toNat / 16 = 15 then some (dcs.toNat / 4 % 2)
  else none

/-- The width of the validity period from `fo[4:3]` (R205). -/
def vpOctets (fo : Byte) : Nat :=
  if fo.toNat / 8 % 4 = 0 then 0 else if fo.toNat / 8 % 4 = 2 then 1 else 7

/-- The fields up to the protocol identifier are well formed for a decode with flag `sca`: the SCA block has the
length its first octet says (R204); the message type is Deliver or Submit; the address has its digits, each a
decimal digit, and fits its array with its NUL (R181). -/
structure GsmFields.HeadOk (c : Config) (sca : Bool) (f : GsmFields) : Prop where
  scaBlock : if sca then ∃ n l, f.sca = n :: l ∧ l.length = n.toNat else f.sca = []
  type : f.mti = 0 ∨ f.mti = 1
  reference : f.mr.length = f.mti
  digits : f.adr.length = (f.alen.toNat + 1) / 2
  decimal : ∀ i, i < f.alen.toNat → nibble f.adr i ≤ 9
  fits : f.alen.toNat + (plus f.toa).length + 1 ≤ c.addrStrCap

/-- The user data is as its alphabet and UDL say (R100, R207). -/
def GsmFields.BodyOk (c : Config) (f : GsmFields) : Prop :=
  match alphabetOf f.dcs with
  | some 0 => f.udl.toNat ≤ c.textCharsMax ∧ f.ud.length = ceil8 (7 * f.udl.toNat)
  | some 1 => f.udl.toNat ≤ c.udOctetsMax ∧ f.ud.length = f.udl.toNat
  | some 2 => c.ucs2DecodeEn = true ∧ f.udl.toNat ≤ c.udOctetsMax ∧ f.ud.length = f.udl.toNat
  | _ => False

/-- The timestamp or the validity period has its width (R99, R205), and there is no header (R206). -/
structure GsmFields.MiddleOk (f : GsmFields) : Prop where
  time : f.time.length = if f.mti = 0 then 7 else vpOctets f.fo
  noHeader : f.fo.getLsbD 6 = false

/-- The address string of the PDU. -/
def GsmFields.address (f : GsmFields) : List Byte := plus f.toa ++ digits f.adr f.alen.toNat

/-- The timestamp string of the PDU: a Deliver's, or the sentinel where a semi-octet is no digit; empty for a
Submit (R208). -/
def GsmFields.stamp (c : Config) (f : GsmFields) : List Byte := if f.mti = 0 then decTs c f.time else []

/-- The payload of the PDU. -/
def GsmFields.payload (c : Config) (f : GsmFields) : List Byte :=
  if alphabetOf f.dcs = some 0 then unescape c (septets f.ud f.udl.toNat) else f.ud

/-- The format code of the payload (R30): 0 Text, 1 Binary, 3 Ucs2. -/
def GsmFields.formatCode (f : GsmFields) : BitVec 2 :=
  if alphabetOf f.dcs = some 0 then 0 else if alphabetOf f.dcs = some 1 then 1 else 3

/-- A GSM record says: this kind, this address, this timestamp, this format, this payload, this flag, each string
with its NUL and its length (R208). -/
structure RecordSays (m : GsmMsg) (kind : BitVec 2) (addr ts : List Byte) (format : BitVec 2)
    (data : List Byte) (srr : BitVec 1) : Prop where
  kindIs : m.kind = kind
  addrLen : m.addrLen.toNat = addr.length
  addrIs : ∀ k, k ≤ addr.length → m.addr.getD k 1 = (addr ++ [0]).getD k 1
  formatIs : m.format = format
  tsLen : m.tsLen.toNat = ts.length
  tsIs : ∀ k, k ≤ ts.length → m.ts.getD k 1 = (ts ++ [0]).getD k 1
  dataLen : m.dataLen.toNat = data.length
  dataIs : ∀ k, k < data.length → m.data.getD k 1 = data.getD k 1
  srrIs : m.srr = srr

/-- The string of an array field and its length field: where the field counts more than the array holds, with the
free characters of log 16. -/
def arrayString (a : List Byte) (len : Byte) : List Byte :=
  (List.range len.toNat).map (fun i => a.getD i (Config.freePastArray i))

/-- The PDU ENCGSM writes (R215, R216, R217). -/
def encoded (c : Config) (kind enc : Nat) (sca srr : Bool) (addr ts text : List Byte) : List Byte :=
  (if sca then [0x00] else []) ++
  (if kind = 0 then [0x00] else [if srr then 0x31 else 0x11, 0x00]) ++
  [BitVec.ofNat 8 (addrBody addr).length, toaOf addr] ++ addrOctets addr ++
  [0x00, if enc = 0 then 0x00 else 0x04] ++
  (if kind = 1 then [0xAD] else tsOctets ts) ++
  (if enc = 0 then BitVec.ofNat 8 (septetsOf c text).length :: packSeptets (septetsOf c text)
   else BitVec.ofNat 8 text.length :: text)

/-! ### CDMA bit streams (R62, R101, R102) -/

/-- The low `n` bits of a value, most significant first. -/
def bits (n v : Nat) : List Bool := (List.range n).map (fun i => v.testBit (n - 1 - i))

/-- A field of the width of its type. -/
def field {n : Nat} (v : BitVec n) : List Bool := bits n v.toNat

/-- Zero bits to the next octet boundary. -/
def pad (l : List Bool) : List Bool := l ++ List.replicate (8 * ceil8 l.length - l.length) false

/-- `count` units of `n` bits; a unit past the end of the list is 0 (log 17). -/
def units {k : Nat} (n : Nat) (us : List (BitVec k)) (count : Nat) : List Bool :=
  (List.range count).flatMap (fun i => bits n (us.getD i 0).toNat)

/-- The buffer's stream bits from `p` on are `l`. -/
def Holds (m : Memory) (p : Nat) (l : List Bool) : Prop := ∀ i, i < l.length → streamBit m (p + i) = l.getD i false

/-- Every stream bit outside `p .. p+n-1` is as before. -/
def KeptOutside (p n : Nat) (m m' : Memory) : Prop :=
  ∀ q, q < p ∨ p + n ≤ q → streamBit m' q = streamBit m q

/-- The width of an address unit (R32). -/
def addrUnit (digitMode : BitVec 1) : Nat := if digitMode = 1 then 8 else 4

/-- What stands before the units of an address (R247). -/
def addressHead (a : CdmaAddress) : List Bool :=
  field a.digitMode ++ field a.numberMode ++ (if a.digitMode = 1 then field a.numberType else []) ++
  (if a.digitMode = 1 ∧ a.numberMode = 0 then field a.numberPlan else []) ++ field a.fieldsNumber

/-- An address body (R247, R304). -/
def address (a : CdmaAddress) : List Bool :=
  addressHead a ++ units (addrUnit a.digitMode) a.chari a.fieldsNumber.toNat

/-- What stands before the units of a sub-address (R248). -/
def subaddressHead (a : CdmaSubaddress) : List Bool := field a.type ++ field a.odd ++ field a.fieldsNumber

/-- A sub-address body (R248, R305). -/
def subaddress (a : CdmaSubaddress) : List Bool := subaddressHead a ++ units 8 a.chari a.fieldsNumber.toNat

/-- A cause-codes body (R250, R309). -/
def cause (a : CdmaCause) : List Bool :=
  field a.replySeq ++ field a.errorClass ++ (if a.errorClass ≠ 0 then field a.causeCode else [])

/-- A date body (R255, R314). -/
def date (d : CdmaDate) : List Bool :=
  field d.year ++ field d.month ++ field d.day ++ field d.hours ++ field d.minutes ++ field d.seconds

/-- What stands before the units of a call-back number (R266). -/
def callBackHead (a : CdmaCallBack) : List Bool :=
  field a.digitMode ++ (if a.digitMode = 1 then field a.numberType ++ field a.numberPlan else []) ++
  field a.fieldsNumber

/-- A call-back number body (R266, R325). -/
def callBack (a : CdmaCallBack) : List Bool :=
  callBackHead a ++ units (addrUnit a.digitMode) a.chari a.fieldsNumber.toNat

/-- The unit width of an encoding tag (R106), 0 for a tag with none. -/
def udUnit (encoding : BitVec 5) : Nat :=
  if encoding.toNat ∈ [0, 7, 8] then 8 else if encoding.toNat ∈ [2, 3, 9] then 7
  else if encoding.toNat = 4 then 16 else 0

/-- A user-data body after its encoding tag, for a tag with a unit width (R253, R312). -/
def userDataRest (u : CdmaUserData) : List Bool :=
  field u.fieldsNumber ++ units (udUnit u.encoding) u.chari u.fieldsNumber.toNat

/-- The body of a top-level parameter 0 to 7 (R245 to R250, R302 to R309). -/
def param (id : Nat) (m : CdmaPdu) : List Bool :=
  match id with
  | 0 => field m.teleserviceId
  | 1 => field m.serviceCategory
  | 2 => address m.origAddr
  | 3 => subaddress m.origSubaddr
  | 4 => address m.destAddr
  | 5 => subaddress m.destSubaddr
  | 6 => field m.bearerReplySeq
  | 7 => cause m.cause
  | _ => []

/-- The body of a sub-parameter (R252 to R270, R311 to R329). -/
def sub (sid : Nat) (b : CdmaBearer) : List Bool :=
  match sid with
  | 0 => field b.messageIdentifier.messageType ++ field b.messageIdentifier.messageId ++
      field b.messageIdentifier.headerInd
  | 1 => field b.userData.encoding ++ userDataRest b.userData
  | 2 => field b.userResponseCode
  | 3 => date b.messageCenterTimeStamp
  | 4 => date b.validityPeriodAbsolute
  | 5 => field b.validityPeriodRelative
  | 6 => date b.deferredDeliveryTimeAbsolute
  | 7 => field b.deferredDeliveryTimeRelative
  | 8 => field b.priority
  | 9 => field b.privacy
  | 10 => field b.replyOption.userAck ++ field b.replyOption.deliveryAck ++
      field b.replyOption.readAck ++ field b.replyOption.report
  | 11 => field b.messageCount
  | 12 => field b.alertPriority
  | 13 => field b.language
  | 14 => callBack b.callBackNumber
  | 15 => field b.displayMode
  | 17 => field b.depositIndex
  | 20 => field b.messageStatus.errorClass ++ field b.messageStatus.statusCode
  | 21 => field b.tpFailureCause
  | _ => []

/-- A TLV (R102, R301): identifier, number of body octets, the body padded with zero bits. -/
def tlv (id : Nat) (body : List Bool) : List Bool := bits 8 id ++ bits 8 (ceil8 body.length) ++ pad body

/-- The implemented sub-parameters (R251), ascending. -/
def implemented : List Nat := [0, 1, 2, 3, 4, 5, 6, 7, 8, 9, 10, 11, 12, 13, 14, 15, 17, 20, 21]

/-- The body of Bearer Data (R310). -/
def bearer (b : CdmaBearer) : List Bool :=
  implemented.flatMap (fun i => if b.subParameterMask.getLsbD i then tlv i (sub i b) else [])

/-- The body of any top-level parameter. -/
def body (id : Nat) (m : CdmaPdu) : List Bool := if id = 8 then bearer m.bearer else param id m

/-- The whole PDU of a record (R101, R300). -/
def pdu (m : CdmaPdu) : List Bool :=
  field m.format ++
  (List.range 9).flatMap (fun i => if m.parameterMask.getLsbD i then tlv i (body i m) else [])

/-! ### Canonical slots: what survives a round trip (R332) -/

/-- The units are as many as the count says, each within its width. -/
def UnitsOk {k : Nat} (n : Nat) (us : List (BitVec k)) (count : Nat) : Prop :=
  us.length = count ∧ ∀ u ∈ us, u.toNat < 2 ^ n

/-- An address whose absent fields are 0 and whose units fit (R32). -/
def AddressOk (c : Config) (a : CdmaAddress) : Prop :=
  UnitsOk (addrUnit a.digitMode) a.chari a.fieldsNumber.toNat ∧
  ceil8 (a.fieldsNumber.toNat * addrUnit a.digitMode) ≤ c.cdmaAddrCap ∧
  (a.digitMode ≠ 1 → a.numberType = 0) ∧ (¬(a.digitMode = 1 ∧ a.numberMode = 0) → a.numberPlan = 0)

/-- A sub-address whose units fit (R34). -/
def SubaddressOk (c : Config) (a : CdmaSubaddress) : Prop :=
  UnitsOk 8 a.chari a.fieldsNumber.toNat ∧ a.fieldsNumber.toNat ≤ c.cdmaSubaddrCap

/-- A call-back number whose absent fields are 0 and whose units fit (R35). -/
def CallBackOk (c : Config) (a : CdmaCallBack) : Prop :=
  UnitsOk (addrUnit a.digitMode) a.chari a.fieldsNumber.toNat ∧
  ceil8 (a.fieldsNumber.toNat * addrUnit a.digitMode) ≤ c.cdmaAddrCap ∧
  (a.digitMode ≠ 1 → a.numberType = 0 ∧ a.numberPlan = 0)

/-- User data of a tag with a unit width, with no message type, whose units fit (R36). -/
def UserDataOk (c : Config) (u : CdmaUserData) : Prop :=
  udUnit u.encoding ≠ 0 ∧ u.messageType = 0 ∧ UnitsOk (udUnit u.encoding) u.chari u.fieldsNumber.toNat ∧
  ceil8 (u.fieldsNumber.toNat * udUnit u.encoding) ≤ c.cdmaUdCap

/-- The slot of a top-level parameter 0 to 7 is canonical. -/
def ParamOk (c : Config) (id : Nat) (m : CdmaPdu) : Prop :=
  match id with
  | 2 => AddressOk c m.origAddr
  | 3 => SubaddressOk c m.origSubaddr
  | 4 => AddressOk c m.destAddr
  | 5 => SubaddressOk c m.destSubaddr
  | 7 => m.cause.errorClass = 0 → m.cause.causeCode = 0
  | _ => True

/-- The slot of a sub-parameter is canonical. -/
def SubOk (c : Config) (sid : Nat) (b : CdmaBearer) : Prop :=
  match sid with
  | 1 => UserDataOk c b.userData
  | 14 => CallBackOk c b.callBackNumber
  | _ => True

/-- Every present slot of a bearer is canonical, and no bit of an unimplemented kind is set. -/
def BearerOk (c : Config) (b : CdmaBearer) : Prop :=
  (∀ i, b.subParameterMask.getLsbD i = true → i ∈ implemented) ∧
  ∀ i ∈ implemented, b.subParameterMask.getLsbD i = true → SubOk c i b

/-- Every present slot of a record is canonical (the provisos of R332). -/
def RecordOk (c : Config) (m : CdmaPdu) : Prop :=
  (∀ i, i < 8 → m.parameterMask.getLsbD i = true → ParamOk c i m) ∧
  (m.parameterMask.getLsbD 8 = true → BearerOk c m.bearer)

/-- Put parameter slot `id` of `v` into `m`. -/
def copyParam (id : Nat) (v m : CdmaPdu) : CdmaPdu :=
  match id with
  | 0 => { m with teleserviceId := v.teleserviceId }
  | 1 => { m with serviceCategory := v.serviceCategory }
  | 2 => { m with origAddr := v.origAddr }
  | 3 => { m with origSubaddr := v.origSubaddr }
  | 4 => { m with destAddr := v.destAddr }
  | 5 => { m with destSubaddr := v.destSubaddr }
  | 6 => { m with bearerReplySeq := v.bearerReplySeq }
  | 7 => { m with cause := v.cause }
  | 8 => { m with bearer := v.bearer }
  | _ => m

/-- Put sub-parameter slot `sid` of `v` into `b`. -/
def copySub (sid : Nat) (v b : CdmaBearer) : CdmaBearer :=
  match sid with
  | 0 => { b with messageIdentifier := v.messageIdentifier }
  | 1 => { b with userData := v.userData }
  | 2 => { b with userResponseCode := v.userResponseCode }
  | 3 => { b with messageCenterTimeStamp := v.messageCenterTimeStamp }
  | 4 => { b with validityPeriodAbsolute := v.validityPeriodAbsolute }
  | 5 => { b with validityPeriodRelative := v.validityPeriodRelative }
  | 6 => { b with deferredDeliveryTimeAbsolute := v.deferredDeliveryTimeAbsolute }
  | 7 => { b with deferredDeliveryTimeRelative := v.deferredDeliveryTimeRelative }
  | 8 => { b with priority := v.priority }
  | 9 => { b with privacy := v.privacy }
  | 10 => { b with replyOption := v.replyOption }
  | 11 => { b with messageCount := v.messageCount }
  | 12 => { b with alertPriority := v.alertPriority }
  | 13 => { b with language := v.language }
  | 14 => { b with callBackNumber := v.callBackNumber }
  | 15 => { b with displayMode := v.displayMode }
  | 17 => { b with depositIndex := v.depositIndex }
  | 20 => { b with messageStatus := v.messageStatus }
  | 21 => { b with tpFailureCause := v.tpFailureCause }
  | _ => b

/-- Set bit `id` of the parameter mask. -/
def withParamBit (id : Nat) (m : CdmaPdu) : CdmaPdu :=
  { m with parameterMask := m.parameterMask ||| BitVec.ofNat 9 (2 ^ id) }

/-- Set bit `sid` of the sub-parameter mask. -/
def withSubBit (sid : Nat) (b : CdmaBearer) : CdmaBearer :=
  { b with subParameterMask := b.subParameterMask ||| BitVec.ofNat 24 (2 ^ sid) }

/-- The bearer with every slot of a clear mask bit at its all-zero value (R37). -/
def presentBearer (b : CdmaBearer) : CdmaBearer :=
  implemented.foldl (fun r i => if b.subParameterMask.getLsbD i then copySub i b r else r)
    { subParameterMask := b.subParameterMask }

/-- The record with every slot of a clear mask bit at its all-zero value (R37). -/
def presentRecord (m : CdmaPdu) : CdmaPdu :=
  (List.range 9).foldl
    (fun r i => if m.parameterMask.getLsbD i then
      copyParam i { m with bearer := presentBearer m.bearer } r else r)
    { format := m.format, parameterMask := m.parameterMask }

/-- The octet index a resynchronisation from a header at octet `p` (R242) leaves RC at: `p + len`, clamped to the
capacity. -/
def resyncOctet (p len cap : Nat) : Nat := min (p + len) cap

/-- The header instructions of the parameters with a body of their own, 0 to 7 (R103). -/
def paramInstrs (len : Byte) : List (Nat × Instr) :=
  [(0, .pTeleservice len), (1, .pServcat len), (2, .pOrigaddr len), (3, .pOrigsub len),
   (4, .pDestaddr len), (5, .pDestsub len), (6, .pBearerreply len), (7, .pCause len)]

/-- The buffer ends inside the body `l` at RC (R244 (a)): the bits before its end are those of `l`, and more are due. -/
def EndsInside (s : State) (l : List Bool) : Prop :=
  8 * s.rc.cap < s.rc.pos + l.length ∧ Holds s.ibuf s.rc.pos (l.take (8 * s.rc.cap - s.rc.pos))

/-- The fewest bits a body of parameter 0 to 7 can have (R245 to R250). -/
def shortestParam (id : Nat) : Nat := [16, 16, 10, 12, 10, 12, 6, 8].getD id 0

/-- The fewest bits a body of an implemented sub-parameter can have (R252 to R270). -/
def shortestSub (sid : Nat) : Nat :=
  [21, 13, 8, 48, 48, 8, 48, 8, 2, 2, 4, 8, 2, 8, 9, 2, 0, 16, 0, 0, 8, 8].getD sid 0

/-- The expected length of a fixed-length parameter (R103). -/
def paramExpected (id : Nat) : Option Nat :=
  if id = 0 ∨ id = 1 then some 2 else if id = 6 then some 1 else none

/-- The header instructions of the nineteen implemented sub-parameters (R104). -/
def subInstrs (len : Byte) : List (Nat × Instr) :=
  [(0, .sMsgid len), (1, .sUserdata len), (2, .sRespcode len), (3, .sMcts len), (4, .sVpabs len),
   (5, .sVprel len), (6, .sDdtabs len), (7, .sDdtrel len), (8, .sPriority len), (9, .sPrivacy len),
   (10, .sReplyopt len), (11, .sMsgcount len), (12, .sAlert len), (13, .sLanguage len),
   (14, .sCallback len), (15, .sDispmode len), (17, .sDeposit len), (20, .sMsgstatus len),
   (21, .sTpfail len)]

/-- The header instructions of the five kinds with no body (R104, R271). -/
def bodilessInstrs (len : Byte) : List (Nat × Instr) :=
  [(16, .sMultienc len), (18, .sScpdata len), (19, .sScpresult len), (22, .sEvmn len),
   (23, .sEvmnack len)]

/-- The expected length of a fixed-length sub-parameter (R104, R251). -/
def subExpected (sid : Nat) : Option Nat :=
  if sid = 0 then some 3 else if sid ∈ [3, 4, 6] then some 6 else if sid = 17 then some 2
  else if sid ∈ [2, 5, 7, 8, 9, 10, 11, 12, 13, 15, 20, 21] then some 1 else none

/-- The declared length is the expected one, where one is expected. -/
def LengthOk (expected : Option Nat) (len : Byte) : Prop := ∀ e, expected = some e → len.toNat = e

/-- The encoding tags with a unit width, and the width (R106). -/
def handledTags : List (Instr × BitVec 5 × Nat) :=
  [(.udOctet, 0, 8), (.udAscii7, 2, 7), (.udIa5, 3, 7), (.udUnicode, 4, 16), (.udLatinhebrew, 7, 8),
   (.udLatin, 8, 8), (.udGsm7, 9, 7)]

/-- The septets after an escape and their characters (R164). -/
def extensions : List (Instr × Septet × Byte) :=
  [(.esc0C, 10, 0x0C), (.esc5E, 20, 0x5E), (.esc7B, 40, 0x7B), (.esc7D, 41, 0x7D), (.esc5C, 47, 0x5C),
   (.esc5B, 60, 0x5B), (.esc7E, 61, 0x7E), (.esc5D, 62, 0x5D), (.esc7C, 64, 0x7C)]

/-- Every present slot keeps its capacity invariant (R300). -/
def Fits (c : Config) (m : CdmaPdu) : Prop :=
  (m.parameterMask.getLsbD 2 = true →
    ceil8 (m.origAddr.fieldsNumber.toNat * addrUnit m.origAddr.digitMode) ≤ c.cdmaAddrCap) ∧
  (m.parameterMask.getLsbD 4 = true →
    ceil8 (m.destAddr.fieldsNumber.toNat * addrUnit m.destAddr.digitMode) ≤ c.cdmaAddrCap) ∧
  (m.parameterMask.getLsbD 3 = true → m.origSubaddr.fieldsNumber.toNat ≤ c.cdmaSubaddrCap) ∧
  (m.parameterMask.getLsbD 5 = true → m.destSubaddr.fieldsNumber.toNat ≤ c.cdmaSubaddrCap) ∧
  (m.parameterMask.getLsbD 8 = true → m.bearer.subParameterMask.getLsbD 14 = true →
    ceil8 (m.bearer.callBackNumber.fieldsNumber.toNat * addrUnit m.bearer.callBackNumber.digitMode) ≤
      c.cdmaAddrCap) ∧
  (m.parameterMask.getLsbD 8 = true → m.bearer.subParameterMask.getLsbD 1 = true →
    ceil8 (m.bearer.userData.fieldsNumber.toNat * udUnit m.bearer.userData.encoding) ≤ c.cdmaUdCap)

/-- A present bearer has the mask bit of a kind with no body (R330). -/
def HasBodiless (m : CdmaPdu) : Prop :=
  m.parameterMask.getLsbD 8 = true ∧ ∃ i ∈ [16, 18, 19, 22, 23], m.bearer.subParameterMask.getLsbD i = true

/-- The present user data has an encoding with no unit width (R312). -/
def HasNoWidth (m : CdmaPdu) : Prop :=
  m.parameterMask.getLsbD 8 = true ∧ m.bearer.subParameterMask.getLsbD 1 = true ∧
  udUnit m.bearer.userData.encoding = 0

/-- Every parameter written has a body its length octet can count, and the PDU fits the capacity (R301, R331). -/
def Roomy (c : Config) (m : CdmaPdu) : Prop :=
  (∀ i, i < 9 → m.parameterMask.getLsbD i = true → ceil8 (body i m).length ≤ 255) ∧
  (pdu m).length ≤ 8 * c.cdmaPduCap

end Sys2Proof.Wire
end

