-- ==== Sys2Proof/Certificates/Slice0/Obligations.lean ====
section
/-! DEFINITION. The statements for the provers. Each is about the machine; R<n> are the rules of spec/. A wire
format is described by the plain lists of Sys2Proof/Wire.lean, which the machine never uses. Where a statement says
`Raised`, what the operation may leave behind is the model's reading of R352 (log 6, log 8, log 9, log 21, log 22);
where it mentions DIAG after a refused operand, log 14. -/

section

open Sys2Proof Sys2Proof.Machine Sys2Proof.Wire

/-! ### The machine: reset, invariant, dispatch -/

/-- R39: what reset leaves, as far as the spec gives it. -/
def Obligations.ResetValues : Prop :=
  State.reset.cmd = 0 ∧ State.reset.status = 0 ∧ State.reset.diag = 0 ∧
  (∀ i : Fin 8, hostReadG i State.reset = 0) ∧
  State.reset.rc.isOpen = false ∧ State.reset.wc.isOpen = false ∧
  State.reset.cfg.a8to7 = defaultA8to7 ∧ State.reset.cfg.a7to8 = defaultA7to8 ∧
  State.reset.cfg.ext7to8 = defaultExt7to8

/-- The invariant of every state holds at reset. It rests on the model's own reset values of what R39 leaves
unspecified (log 1, 2, 3), DESIGN CHOICES. -/
def Obligations.ResetInvariant : Prop := State.reset.Inv

/-- R25, R26, R23, R33, R61, R40: every step from every good state, an operation or a wire-format element,
leaves a good state. -/
def Obligations.StepKeepsInvariant : Prop :=
  ∀ s t : State, s.Inv → step s = .next t → t.Inv

/-- A step runs the decoded instruction: the operation CMD selects, or the element placed in `sel` (log 11),
taken out of it. Nothing else is added around exec. A CMD word whose reserved field is not 0 runs no operation,
whatever its OP (R22, R91). -/
def Obligations.StepRunsDecoded : Prop :=
  ∀ (s : State) (i : Instr),
    (s.sel = none → decodeAt .cmd s.cmd = .ok i → step s = exec i s) ∧
    (∀ f w, s.sel = some (f, w) → decodeAt f w = .ok i → step s = exec i { s with sel := none }) ∧
    (∀ w : Word, decodeAt .cmd w = .ok i →
      step (s.withFetchWord 32 w.toNat) = exec i { s with cmd := w, sel := none }) ∧
    (s.sel = none → 256 ≤ s.cmd.toNat → step s = .next { s with status := 3, diag := 0 })

/-- Every well-formed instruction reads back from its own word, with every operand at every value. -/
def Obligations.DecodeInvertsEncode : Prop :=
  ∀ i : Instr, i.wf = true → decodeAt (formatOf i) (encode i) = .ok i

/-- What the decoder answers is well formed and belongs to the table it was read from. -/
def Obligations.DecodeIsWellFormed : Prop :=
  ∀ (f : Format) (w : Word) (i : Instr), decodeAt f w = .ok i → i.wf = true ∧ formatOf i = f

/-- Words written out from the tables of R90, R96, R97, R103, R104, R106 and R164. -/
def Obligations.DecodeWords : Prop :=
  decodeAt .cmd 0x00000003 = .ok .rdbits ∧ decodeAt .cmd 0x00000011 = .ok .unpack7 ∧
  decodeAt .cmd 0x00000021 = .ok .decaddr ∧ decodeAt .cmd 0x00000031 = .ok .decgsm ∧
  decodeAt .cmd 0x00000041 = .ok .deccdma ∧ decodeAt .cmd 0x00000009 = .ok (.illegal 0x09) ∧
  decodeAt .foMti 0x11 = .ok .mtiSubmit ∧ decodeAt .foVpf 0x11 = .ok .vpfRelative ∧
  decodeAt .gsmDcs 0xF5 = .ok .dcsGF8bit ∧ decodeAt .gsmToa 0x91 = .ok .toaInternational ∧
  decodeAt .cdmaFormat 0x03 = .ok (.fmtUndefined 0x03) ∧
  decodeAt .cdmaParam 0x0407 = .ok (.pDestaddr 0x07) ∧
  decodeAt .cdmaSubparam 0x1603 = .ok (.sEvmn 0x03) ∧ decodeAt .udEncoding 0x02 = .ok .udAscii7 ∧
  decodeAt .septet 0x1B = .ok .esc ∧ decodeAt .septetAfterEsc 0x28 = .ok .esc7B

/-- R92: an unassigned operation code changes STATUS and DIAG only. -/
def Obligations.IllegalCommand : Prop :=
  ∀ (s : State) (op : Byte),
    (op.toNat = 0 ∨ (0x09 ≤ op.toNat ∧ op.toNat ≤ 0x0F) ∨ (0x12 ≤ op.toNat ∧ op.toNat ≤ 0x1F) ∨
      (0x24 ≤ op.toNat ∧ op.toNat ≤ 0x2F) ∨ (0x32 ≤ op.toNat ∧ op.toNat ≤ 0x3F) ∨ 0x42 ≤ op.toNat) →
    exec (.illegal op) s = .next { s with status := 3, diag := 0 } ∧
    (s.sel = none → s.cmd = op.setWidth 32 → step s = .next { s with status := 3, diag := 0 })

/-- R350, R33: every operation ends with one of the four kinds; every one but DECCDMA leaves DIAG at 0 or with
bit 4 alone, bit 4 only RDBITS and WRBITS; DECCDMA leaves bits 3 to 0. -/
def Obligations.EveryOperationEnds : Prop :=
  ∀ (i : Instr) (s : State), formatOf i = .cmd →
    ∃ t, exec i s = .next t ∧ t.status.toNat < 4 ∧
      (i = .deccdma → t.diag.toNat < 16) ∧
      (i = .rdbits ∨ i = .wrbits → t.diag = 0 ∨ t.diag = 0x10) ∧
      (i ≠ .deccdma → i ≠ .rdbits → i ≠ .wrbits → t.diag = 0)

/-- R21, R24, R40, R352: what no operation and no element ever writes. -/
def Obligations.NeverWritten : Prop :=
  ∀ (i : Instr) (s t : State), exec i s = .next t →
    t.ibuf = s.ibuf ∧ t.cmd = s.cmd ∧ t.ilen = s.ilen ∧ t.arg0 = s.arg0 ∧ t.arg1 = s.arg1 ∧
    t.arg2 = s.arg2 ∧ t.g7 = s.g7 ∧ t.cfg = s.cfg ∧ t.sel = s.sel

/-! ### Bit buffer (40_bitbuffer.md) -/

/-- R140: RCINIT opens RC over the ILEN octets of IBUF, at bit 0, or is FAULT; DIAG is cleared in both cases
(the model's reading, log 14). -/
def Obligations.RcinitOpens : Prop :=
  ∀ s : State,
    exec .rcinit s = .next (if s.cfg.ibufCap < s.ilen.toNat then { s with diag := 0, status := 3 }
      else { s with
        diag := 0, status := 0, rc := { isOpen := true, cap := s.ilen.toNat, pos := 0 } })

/-- R141: WCINIT opens WC and clears the octets it may write; a capacity above OBUF_CAP is FAULT, and then OLEN
is unspecified (R21, U3), OBUF and the cursors as they were (R352; log 14, log 18). -/
def Obligations.WcinitOpens : Prop :=
  ∀ s : State,
    (s.arg0.toNat ≤ s.cfg.obufCap → ∃ m,
      exec .wcinit s = .next { s with
        diag := 0, status := 0, olen := 0, obuf := m
        wc := { isOpen := true, cap := s.arg0.toNat, pos := 0, ovf := false } } ∧
      (∀ a, a < s.arg0.toNat → memRead m a = 0) ∧
      (∀ a, s.arg0.toNat ≤ a → memRead m a = memRead s.obuf a)) ∧
    (s.cfg.obufCap < s.arg0.toNat → ∃ t,
      exec .wcinit s = .next t ∧ Raised .wcinit .fault { s with diag := 0 } t)

/-- R142: RDBITS reads `n` bits most significant first and moves RC by `n`; a width outside 1 to 32 is FAULT
with DIAG.WIDTH; a read past the capacity is OVERFLOW; both leave RES0 = 0 and RC where it was. -/
def Obligations.RdbitsReads : Prop :=
  ∀ s : State, s.rc.isOpen = true →
    (s.arg0.toNat < 1 ∨ 32 < s.arg0.toNat →
      exec .rdbits s = .next { s with diag := 0x10, status := 3, res0 := 0 }) ∧
    (1 ≤ s.arg0.toNat → s.arg0.toNat ≤ 32 → 8 * s.rc.cap < s.rc.pos + s.arg0.toNat →
      exec .rdbits s = .next { s with diag := 0, status := 2, res0 := 0 }) ∧
    (1 ≤ s.arg0.toNat → s.arg0.toNat ≤ 32 → s.rc.pos + s.arg0.toNat ≤ 8 * s.rc.cap → ∃ v,
      exec .rdbits s = .next { s with
        diag := 0, status := 0, res0 := v, rc := { s.rc with pos := s.rc.pos + s.arg0.toNat } } ∧
      ∀ i, i < 32 → v.getLsbD i =
        (decide (i < s.arg0.toNat) && streamBit s.ibuf (s.rc.pos + (s.arg0.toNat - 1 - i))))

/-- R143: WRBITS appends the low `n` bits of the value most significant first; every other bit of OBUF keeps its
value; a bad width is FAULT with DIAG.WIDTH; bits that do not fit are refused whole, with WC.ovf set. -/
def Obligations.WrbitsWrites : Prop :=
  ∀ s : State, s.wc.isOpen = true →
    (s.arg0.toNat < 1 ∨ 32 < s.arg0.toNat →
      exec .wrbits s = .next { s with diag := 0x10, status := 3 }) ∧
    (1 ≤ s.arg0.toNat → s.arg0.toNat ≤ 32 → 8 * s.wc.cap < s.wc.pos + s.arg0.toNat →
      exec .wrbits s = .next { s with diag := 0, status := 2, wc := { s.wc with ovf := true } }) ∧
    (1 ≤ s.arg0.toNat → s.arg0.toNat ≤ 32 → s.wc.pos + s.arg0.toNat ≤ 8 * s.wc.cap → ∃ m,
      exec .wrbits s = .next { s with
        diag := 0, status := 0, obuf := m, wc := { s.wc with pos := s.wc.pos + s.arg0.toNat } } ∧
      (∀ i, i < s.arg0.toNat → streamBit m (s.wc.pos + i) = s.arg1.getLsbD (s.arg0.toNat - 1 - i)) ∧
      KeptOutside s.wc.pos s.arg0.toNat s.obuf m)

/-- R144, R146: SKIPB moves RC to the next octet boundary, RCSEEK to the octet position, clamped to the
capacity. -/
def Obligations.ReadCursorMoves : Prop :=
  ∀ s : State, s.rc.isOpen = true →
    exec .skipb s = .next { s with
      diag := 0, status := 0, rc := { s.rc with pos := 8 * ((s.rc.pos + 7) / 8) } } ∧
    exec .rcseek s = .next { s with
      diag := 0, status := 0, rc := { s.rc with pos := 8 * min s.arg0.toNat s.rc.cap } }

/-- R145: FLUSH writes zero bits to the next octet boundary and OLEN takes the octets written. -/
def Obligations.FlushPads : Prop :=
  ∀ s : State, s.wc.isOpen = true → ∃ m,
    exec .flush s = .next { s with
      diag := 0, status := 0, obuf := m, olen := BitVec.ofNat 32 ((s.wc.pos + 7) / 8)
      wc := { s.wc with pos := 8 * ((s.wc.pos + 7) / 8) } } ∧
    (∀ q, s.wc.pos ≤ q → q < 8 * ((s.wc.pos + 7) / 8) → streamBit m q = false) ∧
    KeptOutside s.wc.pos (8 * ((s.wc.pos + 7) / 8) - s.wc.pos) s.obuf m

/-- R147: WCPATCH overwrites one octet wholly behind the cursor, and no other; else FAULT. -/
def Obligations.WcpatchPatches : Prop :=
  ∀ s : State, s.wc.isOpen = true →
    (s.wc.pos < 8 * s.arg0.toNat + 8 → exec .wcpatch s = .next { s with diag := 0, status := 3 }) ∧
    (8 * s.arg0.toNat + 8 ≤ s.wc.pos → ∃ m,
      exec .wcpatch s = .next { s with diag := 0, status := 0, obuf := m } ∧
      memRead m s.arg0.toNat = s.arg1.setWidth 8 ∧
      ∀ a, a ≠ s.arg0.toNat → memRead m a = memRead s.obuf a)

/-- R148: a primitive operation on a closed cursor is FAULT and changes nothing else; DIAG is cleared as at the
start of every operation (R33; log 14). -/
def Obligations.ClosedCursor : Prop :=
  ∀ s : State,
    (s.rc.isOpen = false → ∀ i ∈ [Instr.rdbits, .skipb, .rcseek],
      exec i s = .next { s with diag := 0, status := 3 }) ∧
    (s.wc.isOpen = false → ∀ i ∈ [Instr.wrbits, .flush, .wcpatch],
      exec i s = .next { s with diag := 0, status := 3 })

/-- R149 (b), (c): no primitive operation but RCINIT, WCINIT and RCSEEK moves a cursor back, and none but WCINIT
changes an octet of OBUF at WC.cap or above. -/
def Obligations.PrimitivesMoveOn : Prop :=
  ∀ s t : State, s.Inv →
    (∀ i ∈ [Instr.rdbits, .wrbits, .skipb, .flush, .wcpatch], exec i s = .next t →
      s.rc.pos ≤ t.rc.pos ∧ s.wc.pos ≤ t.wc.pos) ∧
    (∀ i ∈ [Instr.rcinit, .rdbits, .wrbits, .skipb, .flush, .rcseek, .wcpatch], exec i s = .next t →
      OutputKeptFrom s.wc.cap s t)

/-- R149 (a): the writer and the reader use one bit order. Any sequence of writes that fits, then FLUSH, reads
back from a fresh RC over the same octets as the low bits of each value. -/
def Obligations.BitsRoundTrip : Prop :=
  ∀ (s : State) (c : Nat) (l : List (Word × Nat)),
    c < 2 ^ 32 → c ≤ s.cfg.obufCap → c ≤ s.cfg.ibufCap → (∀ x ∈ l, 1 ≤ x.2 ∧ x.2 ≤ 32) →
    (l.map (fun x => x.2)).sum ≤ 8 * c →
    let s0 : State := { s with arg0 := BitVec.ofNat 32 c }
    let a := nextOr (exec .wcinit s0) s0
    let b := writeSeq l a
    let f := nextOr (exec .flush b) b
    let r0 : State := { f with ibuf := f.obuf, ilen := BitVec.ofNat 32 c }
    let r := nextOr (exec .rcinit r0) r0
    b.wc.ovf = false ∧
    (readSeq (l.map (fun x => x.2)) r).1 = l.map (fun x => BitVec.ofNat 32 (x.1.toNat % 2 ^ x.2))

/-! ### Packer (41_alphabet_pack7.md) -/

/-- R165, R63: PACK7 lays the septets of the text LSB-first from bit 0 of octet 0, the unused high bits of the
last octet 0; OLEN counts octets, RES0 septets. -/
def Obligations.Pack7Packs : Prop :=
  ∀ s : State, s.ilen.toNat ≤ s.cfg.ibufCap → s.arg1.toNat ≤ s.cfg.obufCap →
    7 * (septetsOf s.cfg (input s)).length ≤ 8 * s.arg1.toNat → ∃ t,
    exec .pack7 s = .next t ∧
    t = { s with
      diag := 0, status := 0, obuf := t.obuf, free := t.free
      olen := BitVec.ofNat 32 ((7 * (septetsOf s.cfg (input s)).length + 7) / 8)
      res0 := BitVec.ofNat 32 (septetsOf s.cfg (input s)).length } ∧
    (∀ q i, q < (septetsOf s.cfg (input s)).length → i < 7 →
      (memRead t.obuf ((7 * q + i) / 8)).getLsbD ((7 * q + i) % 8) =
        ((septetsOf s.cfg (input s)).getD q 0).getLsbD i) ∧
    (∀ k, 7 * (septetsOf s.cfg (input s)).length ≤ k →
      k < 8 * ((7 * (septetsOf s.cfg (input s)).length + 7) / 8) →
      (memRead t.obuf (k / 8)).getLsbD (k % 8) = false) ∧
    OutputKeptFrom s.arg1.toNat s t

/-- R165, R91: PACK7 is FAULT for an operand out of range and OVERFLOW when the septets of some character do not
fit, that is, when they do not all fit. -/
def Obligations.Pack7Refuses : Prop :=
  ∀ s : State,
    (s.cfg.ibufCap < s.ilen.toNat ∨ s.cfg.obufCap < s.arg1.toNat → ∃ t,
      exec .pack7 s = .next t ∧ Raised .pack7 .fault { s with diag := 0 } t) ∧
    (s.ilen.toNat ≤ s.cfg.ibufCap → s.arg1.toNat ≤ s.cfg.obufCap →
      8 * s.arg1.toNat < 7 * (septetsOf s.cfg (input s)).length → ∃ t,
      exec .pack7 s = .next t ∧ Raised .pack7 .overflow { s with diag := 0 } t)

/-- R166: UNPACK7 gives the characters of the septets, or FAULT for an operand out of range or a short input, or
OVERFLOW for a text longer than the capacity. -/
def Obligations.Unpack7Unpacks : Prop :=
  ∀ s : State,
    (s.cfg.ibufCap < s.ilen.toNat ∨ s.cfg.obufCap < s.arg1.toNat ∨
      s.ilen.toNat < (7 * s.arg0.toNat + 7) / 8 → ∃ t,
      exec .unpack7 s = .next t ∧ Raised .unpack7 .fault { s with diag := 0 } t) ∧
    (s.ilen.toNat ≤ s.cfg.ibufCap → s.arg1.toNat ≤ s.cfg.obufCap →
      (7 * s.arg0.toNat + 7) / 8 ≤ s.ilen.toNat →
      s.arg1.toNat < (unescape s.cfg (septets (input s) s.arg0.toNat)).length → ∃ t,
      exec .unpack7 s = .next t ∧ Raised .unpack7 .overflow { s with diag := 0 } t) ∧
    (s.ilen.toNat ≤ s.cfg.ibufCap → s.arg1.toNat ≤ s.cfg.obufCap →
      (7 * s.arg0.toNat + 7) / 8 ≤ s.ilen.toNat →
      (unescape s.cfg (septets (input s) s.arg0.toNat)).length ≤ s.arg1.toNat → ∃ t,
      exec .unpack7 s = .next t ∧
      t = { s with
        diag := 0, status := 0, obuf := t.obuf, free := t.free
        olen := BitVec.ofNat 32 (unescape s.cfg (septets (input s) s.arg0.toNat)).length } ∧
      OutputIs (unescape s.cfg (septets (input s) s.arg0.toNat)) t ∧
      OutputKeptFrom s.arg1.toNat s t)

/-- R167: for tables that are inverse to each other, UNPACK7 of what PACK7 wrote, with its septet count, gives
the text with every character that has no 7-bit equivalent replaced by the placeholder. -/
def Obligations.TextRoundTrip : Prop :=
  ∀ s t : State, TablesInverse s.cfg → exec .pack7 s = .next t → t.status = 0 →
    s.cfg.ibufCap < 2 ^ 31 → t.olen.toNat ≤ s.cfg.ibufCap → s.ilen.toNat ≤ s.cfg.obufCap → ∃ u,
    exec .unpack7 { t.looped with arg0 := t.res0, arg1 := s.ilen } = .next u ∧ u.status = 0 ∧
    u.olen = s.ilen ∧ OutputIs ((input s).map (norm s.cfg)) u

/-- R167, R163: the default tables are inverse to each other; 131 of the 256 entries of A8TO7 hold 63. -/
def Obligations.DefaultTables : Prop :=
  TablesInverse defaultConfig ∧ defaultConfig.a8to7.length = 256 ∧ defaultConfig.a7to8.length = 256 ∧
  (defaultConfig.a8to7.filter (fun b => decide (b = 63))).length = 131

/-! ### Addresses and timestamps (42_address_timestamp.md) -/

/-- R180, R182: ENCADDR of a phone-number string gives its digits as swapped pairs, the digit count and the TOA;
any other string is FAULT. -/
def Obligations.EncaddrEncodes : Prop :=
  ∀ s : State, s.cfg.wf = true →
    (s.ilen.toNat ≤ s.cfg.ibufCap → AddressString s.cfg (input s) → ∃ t,
      exec .encaddr s = .next t ∧
      t = { s with
        diag := 0, status := 0, obuf := t.obuf, free := t.free
        olen := BitVec.ofNat 32 (((addrBody (input s)).length + 1) / 2)
        res0 := BitVec.ofNat 32 (addrBody (input s)).length
        res1 := (toaOf (input s)).setWidth 32 } ∧
      OutputIs (addrOctets (input s)) t) ∧
    (s.cfg.ibufCap < s.ilen.toNat ∨ ¬ AddressString s.cfg (input s) → ∃ t,
      exec .encaddr s = .next t ∧ Raised .encaddr .fault { s with diag := 0 } t)

/-- R181, R182: DECADDR gives the digits with their NUL, after a `+` for an international TOA; the refusals come
in the order FAULT, OVERFLOW, UNSUPPORTED. -/
def Obligations.DecaddrDecodes : Prop :=
  ∀ s : State, s.cfg.wf = true →
    (s.cfg.ibufCap < s.ilen.toNat ∨ s.ilen.toNat < (s.arg0.toNat + 1) / 2 → ∃ t,
      exec .decaddr s = .next t ∧ Raised .decaddr .fault { s with diag := 0 } t) ∧
    (s.ilen.toNat ≤ s.cfg.ibufCap → (s.arg0.toNat + 1) / 2 ≤ s.ilen.toNat →
      s.cfg.addrStrCap < s.arg0.toNat + (plus (s.arg1.setWidth 8)).length + 1 → ∃ t,
      exec .decaddr s = .next t ∧ Raised .decaddr .overflow { s with diag := 0 } t) ∧
    (s.ilen.toNat ≤ s.cfg.ibufCap → (s.arg0.toNat + 1) / 2 ≤ s.ilen.toNat →
      s.arg0.toNat + (plus (s.arg1.setWidth 8)).length + 1 ≤ s.cfg.addrStrCap →
      ((∃ i, i < s.arg0.toNat ∧ 9 < nibble (input s) i) → ∃ t,
        exec .decaddr s = .next t ∧ Raised .decaddr .unsupported { s with diag := 0 } t) ∧
      ((∀ i, i < s.arg0.toNat → nibble (input s) i ≤ 9) → ∃ t,
        exec .decaddr s = .next t ∧
        t = { s with
          diag := 0, status := 0, obuf := t.obuf, free := t.free
          olen := BitVec.ofNat 32 (s.arg0.toNat + (plus (s.arg1.setWidth 8)).length) } ∧
        OutputIs (plus (s.arg1.setWidth 8) ++ digits (input s) s.arg0.toNat ++ [0]) t))

/-- R183: for every string ENCADDR accepts that fits with its NUL, DECADDR of its output with its digit count
and its TOA ends OK and gives the string; with the default parameters every accepted string fits. -/
def Obligations.AddressRoundTrip : Prop :=
  ∀ s t : State, s.cfg.wf = true → exec .encaddr s = .next t → t.status = 0 →
    (s.ilen.toNat + 1 ≤ s.cfg.addrStrCap → ∃ u,
      exec .decaddr { t.looped with arg0 := t.res0, arg1 := t.res1 } = .next u ∧ u.status = 0 ∧
      u.olen = s.ilen ∧ OutputIs (input s ++ [0]) u) ∧
    (s.cfg.addrDigitsMax = 20 → s.cfg.addrStrCap = 22 → s.ilen.toNat + 1 ≤ s.cfg.addrStrCap)

/-- R184, R186, R187: ENCTS of a timestamp string gives its seven octets; any other string is FAULT. -/
def Obligations.EnctsEncodes : Prop :=
  ∀ s : State, s.cfg.wf = true →
    (s.ilen.toNat ≤ s.cfg.ibufCap → TimestampString (input s) → ∃ t,
      exec .encts s = .next t ∧
      t = { s with diag := 0, status := 0, olen := 7, obuf := t.obuf, free := t.free } ∧
      OutputIs (tsOctets (input s)) t) ∧
    (s.cfg.ibufCap < s.ilen.toNat ∨ ¬ TimestampString (input s) → ∃ t,
      exec .encts s = .next t ∧ Raised .encts .fault { s with diag := 0 } t)

/-- R185: DECTS gives the string of a field of seven octets of decimal digits, and the sentinel for every other
field, with OK in every case; R91: ILEN above IBUF_CAP is FAULT. -/
def Obligations.DectsDecodes : Prop :=
  ∀ s : State, s.cfg.wf = true →
    (s.ilen.toNat ≤ s.cfg.ibufCap → ∃ t l,
      exec .dects s = .next t ∧
      t = { s with
        diag := 0, status := 0, olen := BitVec.ofNat 32 l.length, obuf := t.obuf, free := t.free } ∧
      OutputIs (l ++ [0]) t ∧
      (s.ilen.toNat = 7 → Decimal (input s) → l = tsString (input s)) ∧
      (s.ilen.toNat ≠ 7 ∨ ¬ Decimal (input s) → l = s.cfg.tsUnknown)) ∧
    (s.cfg.ibufCap < s.ilen.toNat → ∃ t,
      exec .dects s = .next t ∧ Raised .dects .fault { s with diag := 0 } t)

/-- The law of R185: for every string ENCTS accepts, DECTS of the result gives the string. -/
def Obligations.TimestampRoundTrip : Prop :=
  ∀ s t : State, s.cfg.wf = true → exec .encts s = .next t → t.status = 0 → ∃ u,
    exec .dects t.looped = .next u ∧ u.status = 0 ∧ u.olen = 20 ∧ OutputIs (input s ++ [0]) u

/-! ### GSM PDU (43_gsm_pdu.md) -/

/-- R201, R208: DECGSM of the octets of a well-formed PDU, whatever follows them, ends OK with the record that
PDU says, and changes nothing else. -/
def Obligations.DecgsmDecodes : Prop :=
  ∀ (s : State) (f : GsmFields) (rest : List Byte), s.cfg.wf = true →
    s.ilen.toNat ≤ s.cfg.ibufCap → s.arg2.toNat < 4 → input s = f.octets ++ rest →
    f.HeadOk s.cfg (s.arg2.getLsbD 0) → f.MiddleOk → f.BodyOk s.cfg → ∃ t,
    exec .decgsm s = .next t ∧
    t = { s with diag := 0, status := 0, msgG := t.msgG, free := t.free } ∧
    RecordSays t.msgG (BitVec.ofNat 2 f.mti) f.address (f.stamp s.cfg) f.formatCode (f.payload s.cfg)
      (if f.mti = 1 ∧ f.fo.getLsbD 5 = true then 1 else 0)

/-- R209, R201: a well-formed PDU cut short anywhere is FAULT. -/
def Obligations.DecgsmCutShort : Prop :=
  ∀ (s : State) (f : GsmFields) (n : Nat), s.cfg.wf = true →
    s.ilen.toNat ≤ s.cfg.ibufCap → s.arg2.toNat < 4 → f.HeadOk s.cfg (s.arg2.getLsbD 0) → f.MiddleOk →
    f.BodyOk s.cfg → n < f.octets.length → input s = f.octets.take n → ∃ t,
    exec .decgsm s = .next t ∧ Raised .decgsm .fault { s with diag := 0 } t

/-- R96, R181, R202, R206, R209: DECGSM refuses, each at its own step, a message type of 0b10 or 0b11, an
address that does not fit or has a semi-octet that is no digit, another coding group, a header, and (R91)
reserved flags or a length above IBUF_CAP. -/
def Obligations.DecgsmRefuses : Prop :=
  ∀ (s : State) (f : GsmFields) (rest : List Byte), s.cfg.wf = true →
    (s.cfg.ibufCap < s.ilen.toNat ∨ 4 ≤ s.arg2.toNat → ∃ t,
      exec .decgsm s = .next t ∧ Raised .decgsm .fault { s with diag := 0 } t) ∧
    (s.ilen.toNat ≤ s.cfg.ibufCap → s.arg2.toNat < 4 →
      ((if s.arg2.getLsbD 0 then ∃ n l, f.sca = n :: l ∧ l.length = n.toNat else f.sca = []) →
        (2 ≤ f.mti → input s = f.sca ++ [f.fo] ++ rest → ∃ t,
          exec .decgsm s = .next t ∧ Raised .decgsm .unsupported { s with diag := 0 } t) ∧
        (f.mti ≤ 1 → f.mr.length = f.mti → f.adr.length = (f.alen.toNat + 1) / 2 →
          input s = f.sca ++ [f.fo] ++ f.mr ++ [f.alen, f.toa] ++ f.adr ++ rest →
          (s.cfg.addrStrCap < f.alen.toNat + (plus f.toa).length + 1 → ∃ t,
            exec .decgsm s = .next t ∧ Raised .decgsm .overflow { s with diag := 0 } t) ∧
          (f.alen.toNat + (plus f.toa).length + 1 ≤ s.cfg.addrStrCap →
            (∃ i, i < f.alen.toNat ∧ 9 < nibble f.adr i) → ∃ t,
            exec .decgsm s = .next t ∧ Raised .decgsm .unsupported { s with diag := 0 } t))) ∧
      (f.HeadOk s.cfg (s.arg2.getLsbD 0) → input s = f.head ++ [f.dcs] ++ rest →
        alphabetOf f.dcs = none → ∃ t,
        exec .decgsm s = .next t ∧ Raised .decgsm .unsupported { s with diag := 0 } t) ∧
      (f.HeadOk s.cfg (s.arg2.getLsbD 0) → alphabetOf f.dcs ≠ none →
        f.time.length = (if f.mti = 0 then 7 else vpOctets f.fo) →
        input s = f.head ++ [f.dcs] ++ f.time ++ [f.udl] ++ rest → f.fo.getLsbD 6 = true → ∃ t,
        exec .decgsm s = .next t ∧ Raised .decgsm .unsupported { s with diag := 0 } t))

/-- R202, R207: at step 9, alphabet 3 and a disabled UCS-2 are UNSUPPORTED, and a UDL above the limit of its
alphabet is OVERFLOW, before any octet of user data is looked at. -/
def Obligations.DecgsmLimits : Prop :=
  ∀ (s : State) (f : GsmFields) (rest : List Byte), s.cfg.wf = true →
    s.ilen.toNat ≤ s.cfg.ibufCap → s.arg2.toNat < 4 → f.HeadOk s.cfg (s.arg2.getLsbD 0) → f.MiddleOk →
    input s = f.head ++ [f.dcs] ++ f.time ++ [f.udl] ++ rest →
    (alphabetOf f.dcs = some 3 ∨ (alphabetOf f.dcs = some 2 ∧ s.cfg.ucs2DecodeEn = false) → ∃ t,
      exec .decgsm s = .next t ∧ Raised .decgsm .unsupported { s with diag := 0 } t) ∧
    ((alphabetOf f.dcs = some 0 ∧ s.cfg.textCharsMax < f.udl.toNat) ∨
      (alphabetOf f.dcs = some 1 ∧ s.cfg.udOctetsMax < f.udl.toNat) ∨
      (alphabetOf f.dcs = some 2 ∧ s.cfg.ucs2DecodeEn = true ∧ s.cfg.udOctetsMax < f.udl.toNat) → ∃ t,
      exec .decgsm s = .next t ∧ Raised .decgsm .overflow { s with diag := 0 } t)

/-- R215, R216, R217: ENCGSM with every operand in order writes the PDU, OLEN its length, and changes nothing
else. -/
def Obligations.EncgsmWrites : Prop :=
  ∀ s : State, s.cfg.wf = true → s.ilen.toNat ≤ s.cfg.ibufCap → s.arg2.toNat < 4 →
    1 ≤ s.ilen.toNat → s.ilen.toNat ≤ s.cfg.textCharsMax → s.arg0.toNat ≤ 1 → s.arg1.toNat ≤ 1 →
    AddressString s.cfg (arrayString s.msgG.addr s.msgG.addrLen) →
    (s.arg0.toNat = 0 → TimestampString (arrayString s.msgG.ts s.msgG.tsLen)) →
    (s.arg1.toNat = 0 → 7 * (septetsOf s.cfg (input s)).length ≤ 8 * s.cfg.udOctetsMax) →
    (s.arg1.toNat = 1 → s.ilen.toNat ≤ s.cfg.udOctetsMax) →
    let p := encoded s.cfg s.arg0.toNat s.arg1.toNat (s.arg2.getLsbD 0) (s.arg2.getLsbD 1)
      (arrayString s.msgG.addr s.msgG.addrLen) (arrayString s.msgG.ts s.msgG.tsLen) (input s)
    p.length ≤ s.cfg.pduCap → ∃ t,
    exec .encgsm s = .next t ∧
    t = { s with
      diag := 0, status := 0, olen := BitVec.ofNat 32 p.length, obuf := t.obuf, free := t.free } ∧
    OutputIs p t ∧ OutputKeptFrom s.cfg.pduCap s t

/-- R91, R218: the checks of ENCGSM in their order, for every parameter record R9 admits: the operand checks, (a) to
(h), and a PDU past PDU_CAP (i); the first that fails gives the status. -/
def Obligations.EncgsmChecks : Prop :=
  ∀ s : State, s.cfg.wf = true →
    let n := s.ilen.toNat
    let addr := arrayString s.msgG.addr s.msgG.addrLen
    let ts := arrayString s.msgG.ts s.msgG.tsLen
    let septets := (septetsOf s.cfg (input s)).length
    let p := encoded s.cfg s.arg0.toNat s.arg1.toNat (s.arg2.getLsbD 0) (s.arg2.getLsbD 1) addr ts (input s)
    let Ends := fun k : Kind =>
      ∃ t, exec .encgsm s = .next t ∧ Raised .encgsm k { s with diag := 0 } t
    (s.cfg.ibufCap < n ∨ 4 ≤ s.arg2.toNat → Ends .fault) ∧
    (n ≤ s.cfg.ibufCap → s.arg2.toNat < 4 →
      (n = 0 → Ends .fault) ∧
      (1 ≤ n → s.cfg.textCharsMax < n → Ends .unsupported) ∧
      (1 ≤ n → n ≤ s.cfg.textCharsMax →
        (2 ≤ s.arg0.toNat → Ends .unsupported) ∧
        (s.arg0.toNat ≤ 1 → 2 ≤ s.arg1.toNat → Ends .unsupported) ∧
        (s.arg0.toNat ≤ 1 → s.arg1.toNat ≤ 1 →
          (¬ AddressString s.cfg addr → Ends .fault) ∧
          (AddressString s.cfg addr → s.arg0.toNat = 0 → ¬ TimestampString ts → Ends .fault) ∧
          (AddressString s.cfg addr → (s.arg0.toNat = 0 → TimestampString ts) →
            (s.arg1.toNat = 0 → 8 * s.cfg.udOctetsMax < 7 * septets → Ends .overflow) ∧
            (s.arg1.toNat = 1 → s.cfg.udOctetsMax < n → Ends .overflow) ∧
            ((s.arg1.toNat = 0 → 7 * septets ≤ 8 * s.cfg.udOctetsMax) →
              (s.arg1.toNat = 1 → n ≤ s.cfg.udOctetsMax) → s.cfg.pduCap < p.length → Ends .overflow)))))

/-- R219: DECGSM of what ENCGSM wrote, with the same flag, gives the kind, the address, the payload (normalised,
for text), the status-report request of a Submit and the timestamp of a Deliver. -/
def Obligations.GsmRoundTrip : Prop :=
  ∀ s t : State, s.cfg.wf = true → TablesInverse s.cfg →
    8 * s.cfg.udOctetsMax < 7 * (s.cfg.textCharsMax + 1) → exec .encgsm s = .next t → t.status = 0 →
    s.msgG.addrLen.toNat + 1 ≤ s.cfg.addrStrCap → t.olen.toNat ≤ s.cfg.ibufCap → ∃ u,
    exec .decgsm t.looped = .next u ∧ u.status = 0 ∧
    RecordSays u.msgG (BitVec.ofNat 2 s.arg0.toNat) (arrayString s.msgG.addr s.msgG.addrLen)
      (if s.arg0 = 0 then arrayString s.msgG.ts s.msgG.tsLen else []) (if s.arg1 = 0 then 0 else 1)
      (if s.arg1 = 0 then (input s).map (norm s.cfg) else input s)
      (if s.arg0 = 1 ∧ s.arg2.getLsbD 1 = true then 1 else 0)

/-! ### Elements of the GSM PDU and of GSM text, as steps of the operation that meets them (log 11) -/

/-- The model's elements (log 11), after R96, R206, R208, R182: the message type sets the kind, or ends the
operation UNSUPPORTED; a header ends it UNSUPPORTED; the status-report request is kept for a Submit only; an
international type of address puts a `+` before the digits. -/
def Obligations.FlagElements : Prop :=
  ∀ s : State,
    exec .mtiDeliver s =
      .next { s with work := { s.work with gsm := { s.work.gsm with kind := 0 } } } ∧
    exec .mtiSubmit s =
      .next { s with work := { s.work with gsm := { s.work.gsm with kind := 1 } } } ∧
    (∀ i ∈ [Instr.mti10, .mti11, .udhi], ∃ t,
      exec i s = .next t ∧ Raised s.work.op .unsupported s t ∧ t.work = {}) ∧
    (s.work.gsm.kind = 1 →
      exec .srr s = .next { s with work := { s.work with gsm := { s.work.gsm with srr := 1 } } }) ∧
    (s.work.gsm.kind ≠ 1 → exec .srr s = .next s) ∧
    exec .toaInternational s =
      .next { s with work := { s.work with text := { s.work.text with out := s.work.text.out ++ [0x2B] } } }

/-- The model's elements (log 11), after R205: the validity period of a Submit is skipped as 0, 1, 7 or 7
octets, or is FAULT where they are not there; of a Deliver nothing is skipped. -/
def Obligations.ValidityElements : Prop :=
  ∀ s : State, ∀ x ∈ [(Instr.vpfNone, 0), (.vpfRelative, 1), (.vpfEnhanced, 7), (.vpfAbsolute, 7)],
    (s.work.gsm.kind ≠ 1 → exec x.1 s = .next s) ∧
    (s.work.gsm.kind = 1 → s.work.gsm.pos + x.2 ≤ s.ilen.toNat →
      exec x.1 s = .next { s with
        work := { s.work with gsm := { s.work.gsm with pos := s.work.gsm.pos + x.2 } } }) ∧
    (s.work.gsm.kind = 1 → s.ilen.toNat < s.work.gsm.pos + x.2 → ∃ t,
      exec x.1 s = .next t ∧ Raised s.work.op .fault s t ∧ t.work = {})

/-- The model's elements (log 11, log 15), after R202: at step 6 a coding scheme selects its alphabet, the
reserved one included; another coding group ends the operation UNSUPPORTED. -/
def Obligations.CodingSelects : Prop :=
  ∀ s : State,
    (s.work.gsm.udl = none →
      ∀ x ∈ [(Instr.dcsG07bit, 0), (.dcsG08bit, 1), (.dcsG0Ucs2, 2), (.dcsG0Reserved, 3),
        (.dcsGF7bit, 0), (.dcsGF8bit, 1)],
      exec x.1 s = .next { s with work := { s.work with gsm := { s.work.gsm with alpha := x.2 } } }) ∧
    ∀ i ∈ [Instr.dcsG01, .dcsG10, .dcsG1100, .dcsG1101, .dcsG1110], ∃ t,
      exec i s = .next t ∧ Raised s.work.op .unsupported s t ∧ t.work = {}

/-- The model's elements (log 11, log 15), after R207: at step 9, once UDL is read, a 7-bit scheme unpacks that
many septets as Text, an 8-bit scheme and an enabled UCS-2 copy that many octets; a UDL above its limit is
OVERFLOW, missing octets FAULT, alphabet 3 and a disabled UCS-2 UNSUPPORTED. -/
def Obligations.CodingTakesUserData : Prop :=
  ∀ (s : State) (n : Byte), s.cfg.wf = true → s.work.gsm.udl = some n →
    let pos := s.work.gsm.pos
    let Ends := fun (i : Instr) (k : Kind) =>
      ∃ t, exec i s = .next t ∧ Raised s.work.op k s t ∧ t.work = {}
    (∀ i ∈ [Instr.dcsG07bit, .dcsGF7bit],
      (s.cfg.textCharsMax < n.toNat → Ends i .overflow) ∧
      (n.toNat ≤ s.cfg.textCharsMax → s.ilen.toNat < pos + (7 * n.toNat + 7) / 8 → Ends i .fault) ∧
      (n.toNat ≤ s.cfg.textCharsMax → pos + (7 * n.toNat + 7) / 8 ≤ s.ilen.toNat →
        exec i s = .next { s with
          work := { s.work with
            gsm := { s.work.gsm with
              pos := pos + (7 * n.toNat + 7) / 8, format := 0
              data := unescape s.cfg (septets ((input s).drop pos) n.toNat) } } })) ∧
    (∀ x ∈ [(Instr.dcsG08bit, (1 : BitVec 2)), (.dcsGF8bit, 1), (.dcsG0Ucs2, 3)],
      (x.2 = 3 → s.cfg.ucs2DecodeEn = false → Ends x.1 .unsupported) ∧
      ((x.2 = 3 → s.cfg.ucs2DecodeEn = true) →
        (s.cfg.udOctetsMax < n.toNat → Ends x.1 .overflow) ∧
        (n.toNat ≤ s.cfg.udOctetsMax → s.ilen.toNat < pos + n.toNat → Ends x.1 .fault) ∧
        (n.toNat ≤ s.cfg.udOctetsMax → pos + n.toNat ≤ s.ilen.toNat →
          exec x.1 s = .next { s with
            work := { s.work with
              gsm := { s.work.gsm with
                pos := pos + n.toNat, format := x.2
                data := ((input s).drop pos).take n.toNat } } }))) ∧
    Ends .dcsG0Reserved .unsupported

/-- The model's elements (log 11), after R166, R164: the escape puts no character and is remembered; the septet
after it puts its extension character, or the placeholder where the table has none; no room is OVERFLOW. The
default table has the nine characters. -/
def Obligations.EscapeElements : Prop :=
  ∀ s : State,
    exec .esc s = .next { s with work := { s.work with text := { s.work.text with esc := true } } } ∧
    ∀ x ∈ extensions,
      (s.work.text.out.length < s.work.text.cap →
        exec x.1 s = .next { s with
          work := { s.work with
            text := { s.work.text with
              esc := false
              out := s.work.text.out ++ [(s.cfg.ext7to8.lookup x.2.1).getD s.cfg.npc8] } } }) ∧
      (s.work.text.cap ≤ s.work.text.out.length → ∃ t,
        exec x.1 s = .next t ∧ Raised s.work.op .overflow s t ∧ t.work = {}) ∧
      defaultExt7to8.lookup x.2.1 = some x.2.2

/-! ### CDMA PDU (44_cdma_decode.md, 45_cdma_encode.md) -/

/-- R240: DECCDMA is FAULT for an empty buffer (or a length above IBUF_CAP, R91), UNSUPPORTED for a message
format above 2, and otherwise OK, whatever follows; it writes MSG.C and DIAG and leaves RC closed. R241: one octet
left where a header is due sets DIAG.TRUNC and nothing else. What `cap` and `pos` of the closed RC hold after a
failure or an OK is the model's choice (log 22): the last values of R240's own steps. -/
def Obligations.DeccdmaEnds : Prop :=
  ∀ s : State,
    (s.cfg.ibufCap < s.ilen.toNat ∨ s.ilen.toNat = 0 → ∃ t,
      exec .deccdma s = .next t ∧ Raised .deccdma .fault { s with diag := 0 } t) ∧
    (1 ≤ s.ilen.toNat → s.ilen.toNat ≤ s.cfg.ibufCap →
      (2 < (memRead s.ibuf 0).toNat → ∃ t,
        exec .deccdma s = .next t ∧ Raised .deccdma .unsupported
          { s with diag := 0, rc := { isOpen := true, cap := s.ilen.toNat, pos := 8 } } t) ∧
      ((memRead s.ibuf 0).toNat ≤ 2 → ∃ t,
        exec .deccdma s = .next t ∧
        t = { s with
          diag := t.diag, status := 0, msgC := t.msgC
          rc := { isOpen := false, cap := s.ilen.toNat, pos := t.rc.pos } } ∧
        t.msgC.format = memRead s.ibuf 0 ∧
        (s.ilen.toNat = 1 → t.diag = 0 ∧ t.msgC = { format := memRead s.ibuf 0 }) ∧
        (s.ilen.toNat = 2 → t.diag = 8 ∧ t.msgC = { format := memRead s.ibuf 0 })))

/-- R272, R37: after an OK of DECCDMA every slot whose mask bit is clear is all zero, no bit of a kind without a
body is set, and every present slot is canonical: its absent fields 0, its units as many as its count says,
within their width and its buffer. -/
def Obligations.DeccdmaRecord : Prop :=
  ∀ s t : State, exec .deccdma s = .next t → t.status = 0 →
    presentRecord t.msgC = t.msgC ∧ RecordOk t.cfg t.msgC ∧
    ∀ i ∈ [16, 18, 19, 22, 23], t.msgC.bearer.subParameterMask.getLsbD i = false

/-- R243, R242: a parameter of unknown id, whatever its body, does not change what the rest of the PDU decodes
to; it sets DIAG.UNKNOWN_ID. -/
def Obligations.UnknownParameterSkipped : Prop :=
  ∀ (s s' t t' : State) (fmt id len : Byte) (skipped rest : List Byte),
    fmt.toNat ≤ 2 → 8 < id.toNat → skipped.length = len.toNat → s.cfg = s'.cfg →
    s.ilen.toNat ≤ s.cfg.ibufCap → s'.ilen.toNat ≤ s'.cfg.ibufCap →
    input s = fmt :: id :: len :: (skipped ++ rest) → input s' = fmt :: rest →
    exec .deccdma s = .next t → exec .deccdma s' = .next t' →
    t.status = 0 ∧ t'.status = 0 ∧ t.msgC = t'.msgC ∧ t.diag = t'.diag ||| 1

/-- R20, R273: the result of a composite operation is a function of its own operands alone: of the scalar
operands it lists, IBUF below ILEN, the record it lists and the parameters (and of the draw of the free values,
log 6). Nothing else of the state, no earlier result, cursor or record, can show in it. -/
def Obligations.CompositeStateless : Prop :=
  ∀ s s' t t' : State, s.cfg.wf = true →
    ∀ i ∈ [Instr.pack7, .unpack7, .encaddr, .decaddr, .encts, .dects, .encgsm, .decgsm, .enccdma, .deccdma],
    SameOperands i s s' → exec i s = .next t → exec i s' = .next t' →
    t.status = t'.status ∧ t.diag = t'.diag ∧
    (t.status = 0 → (i = .decgsm → t.msgG = t'.msgG) ∧ (i = .deccdma → t.msgC = t'.msgC) ∧
      (i ≠ .decgsm → i ≠ .deccdma → t.olen = t'.olen ∧
        ∀ k, k < t.olen.toNat → memRead t.obuf k = memRead t'.obuf k) ∧
      (i = .pack7 ∨ i = .encaddr → t.res0 = t'.res0) ∧ (i = .encaddr → t.res1 = t'.res1))

/-- R300 to R331: ENCCDMA of a record that passes the four checks and has room writes the PDU of the record from
octet 0, zeros from there to CDMA_PDU_CAP, OLEN its length, leaves WC closed, and changes nothing else; the other
fields of the closed WC are the model's choice (log 22), and so are the zero units of a `chari` with fewer units
than its `fieldsNumber` counts (log 17, from R32). -/
def Obligations.EnccdmaWrites : Prop :=
  ∀ s : State, s.msgC.format.toNat ≤ 2 → ¬ HasBodiless s.msgC → Fits s.cfg s.msgC → ¬ HasNoWidth s.msgC →
    Roomy s.cfg s.msgC → ∃ m,
    exec .enccdma s = .next { s with
      diag := 0, status := 0, obuf := m, olen := BitVec.ofNat 32 ((pdu s.msgC).length / 8)
      wc := { isOpen := false, cap := s.cfg.cdmaPduCap, pos := (pdu s.msgC).length, ovf := false } } ∧
    Holds m 0 (pdu s.msgC) ∧
    (∀ q, (pdu s.msgC).length ≤ q → q < 8 * s.cfg.cdmaPduCap → streamBit m q = false) ∧
    (∀ a, s.cfg.cdmaPduCap ≤ a → memRead m a = memRead s.obuf a)

/-- R300, R330, R312, R331, R301: the refusals of ENCCDMA in their order: three FAULTs, UNSUPPORTED, and
OVERFLOW for a record with no room; WC is left closed, its other fields after a refusal before the emission being the
model's choice (log 22). -/
def Obligations.EnccdmaRefuses : Prop :=
  ∀ s : State,
    let Ends := fun k : Kind =>
      ∃ t, exec .enccdma s = .next t ∧ Raised .enccdma k { s with diag := 0 } t
    (2 < s.msgC.format.toNat → Ends .fault) ∧
    (s.msgC.format.toNat ≤ 2 →
      (HasBodiless s.msgC → Ends .fault) ∧
      (¬ HasBodiless s.msgC →
        (¬ Fits s.cfg s.msgC → Ends .fault) ∧
        (Fits s.cfg s.msgC →
          (HasNoWidth s.msgC → Ends .unsupported) ∧
          (¬ HasNoWidth s.msgC → ¬ Roomy s.cfg s.msgC → ∃ t,
            exec .enccdma s = .next t ∧
            t = { s with
              diag := 0, status := 2, olen := t.olen, obuf := t.obuf, free := t.free, wc := t.wc } ∧
            t.wc.isOpen = false ∧ OutputKeptFrom s.cfg.cdmaPduCap s t))))

/-- R332: DECCDMA of what ENCCDMA wrote ends OK with DIAG 0 and the record, equal in its masks and in every
present slot, for a record whose present slots are canonical. -/
def Obligations.CdmaRoundTrip : Prop :=
  ∀ s t : State, exec .enccdma s = .next t → t.status = 0 → RecordOk s.cfg s.msgC →
    s.cfg.cdmaPduCap < 2 ^ 32 → t.olen.toNat ≤ s.cfg.ibufCap → ∃ u,
    exec .deccdma t.looped = .next u ∧ u.status = 0 ∧ u.diag = 0 ∧ u.msgC = presentRecord s.msgC

/-! ### Elements of the CDMA PDU, as steps of the operation that meets them (log 11) -/

/-- The model's elements (log 11), after R105, R240, R300: a message format octet is kept on decode and written
on encode; an undefined one ends a decode UNSUPPORTED and an encode FAULT. -/
def Obligations.FormatElements : Prop :=
  ∀ s : State,
    (∀ x ∈ [(Instr.fmtPointToPoint, (0 : Byte)), (.fmtBroadcast, 1), (.fmtAcknowledge, 2)],
      (s.work.op ≠ .enccdma →
        exec x.1 s = .next { s with work := { s.work with m := { s.work.m with format := x.2 } } }) ∧
      (s.work.op = .enccdma → s.wc.pos + 8 ≤ 8 * s.wc.cap → ∃ m,
        exec x.1 s = .next { s with obuf := m, wc := { s.wc with pos := s.wc.pos + 8 } } ∧
        Holds m s.wc.pos (bits 8 x.2.toNat) ∧ KeptOutside s.wc.pos 8 s.obuf m) ∧
      (s.work.op = .enccdma → 8 * s.wc.cap < s.wc.pos + 8 →
        exec x.1 s = .next { s with wc := { s.wc with ovf := true } })) ∧
    ∀ v : Byte, 2 < v.toNat → ∃ t, exec (.fmtUndefined v) s = .next t ∧ t.work = {} ∧
      Raised s.work.op (if s.work.op = .enccdma then .fault else .unsupported) s t

/-- The model's elements (log 11), after R245 to R250: where the body of parameter `id` stands at RC, its header
stores the slot in M, sets its mask bit and leaves RC at the end of the declared length. -/
def Obligations.ParameterDecodes : Prop :=
  ∀ (s : State) (v : CdmaPdu) (len : Byte), s.work.op ≠ .enccdma →
    ∀ x ∈ paramInstrs len, LengthOk (paramExpected x.1) len → ParamOk s.cfg x.1 v →
    Holds s.ibuf s.rc.pos (param x.1 v) → s.rc.pos + (param x.1 v).length ≤ 8 * s.rc.cap →
    exec x.2 s = .next { s with
      rc := { s.rc with pos := 8 * resyncOctet (s.rc.pos / 8) len.toNat s.rc.cap }
      work := { s.work with m := withParamBit x.1 (copyParam x.1 v s.work.m) } }

/-- The model's elements (log 11), after R242, R243, R244: an unknown id, a wrong fixed length, a body that the end
of the buffer cuts, wherever it does (R244 (a)), and a count whose units do not fit the record (R244 (b)) each set
their own DIAG bit and store nothing; RC goes to the end of the declared length. -/
def Obligations.ParameterSkipped : Prop :=
  ∀ (s : State) (len : Byte), s.work.op ≠ .enccdma →
    let Skips := fun (i : Instr) (d : Word) => exec i s = .next { s with
      diag := s.diag ||| d
      rc := { s.rc with pos := 8 * resyncOctet (s.rc.pos / 8) len.toNat s.rc.cap } }
    (∀ id : Byte, 8 < id.toNat → Skips (.pUnknown id len) 1) ∧
    (∀ x ∈ paramInstrs len, ¬ LengthOk (paramExpected x.1) len → Skips x.2 2) ∧
    (∀ x ∈ paramInstrs len, LengthOk (paramExpected x.1) len →
      8 * s.rc.cap < s.rc.pos + shortestParam x.1 → Skips x.2 4) ∧
    (∀ x ∈ paramInstrs len, LengthOk (paramExpected x.1) len → ∀ v : CdmaPdu, ParamOk s.cfg x.1 v →
      EndsInside s (param x.1 v) → Skips x.2 4) ∧
    (∀ a : CdmaAddress, s.cfg.cdmaAddrCap < ceil8 (a.fieldsNumber.toNat * addrUnit a.digitMode) →
      Holds s.ibuf s.rc.pos (addressHead a) → Skips (.pOrigaddr len) 4 ∧ Skips (.pDestaddr len) 4) ∧
    (∀ a : CdmaSubaddress, s.cfg.cdmaSubaddrCap < a.fieldsNumber.toNat →
      Holds s.ibuf s.rc.pos (subaddressHead a) → Skips (.pOrigsub len) 4 ∧ Skips (.pDestsub len) 4)

/-- The model's elements (log 11), after R251: where the sub-parameters of a bearer stand at RC, the header of
Bearer Data stores it with its masks and sets mask bit 8, and one octet left over after them sets DIAG.TRUNC;
whatever stands there, it never fails, sets mask bit 8 and leaves RC at the end of the declared length. -/
def Obligations.BearerDecodes : Prop :=
  ∀ (s : State) (len : Byte), s.work.op ≠ .enccdma →
    (∀ (v : CdmaBearer) (k : Nat), k ≤ 1 → s.rc.pos % 8 = 0 → BearerOk s.cfg v →
      (bearer v).length + 8 * k = 8 * len.toNat →
      Holds s.ibuf s.rc.pos (bearer v) → s.rc.pos + 8 * len.toNat ≤ 8 * s.rc.cap →
      exec (.pBearerdata len) s = .next { s with
        diag := if k = 1 then s.diag ||| 8 else s.diag
        rc := { s.rc with pos := s.rc.pos + 8 * len.toNat }
        work := { s.work with
          m := withParamBit 8 { s.work.m with bearer := presentBearer v }
          b := presentBearer v
          bEnd := s.rc.pos / 8 + len.toNat } }) ∧
    ∃ t, exec (.pBearerdata len) s = .next t ∧
      t = { s with
        diag := t.diag
        rc := { s.rc with pos := 8 * resyncOctet (s.rc.pos / 8) len.toNat s.rc.cap }
        work := { s.work with
          m := withParamBit 8 { s.work.m with bearer := t.work.b }, b := t.work.b, bEnd := t.work.bEnd } }

/-- The model's elements (log 11), after R301 to R310: while ENCCDMA runs, the header of a parameter whose mask
bit is set writes its TLV at WC, and changes no other bit; one whose bit is clear writes nothing, and an unknown
one is never written. A unit past the end of a `chari` list is written as 0, which is the model's reading of R32
(log 17). -/
def Obligations.ParameterEncodes : Prop :=
  ∀ (s : State) (len : Byte), s.work.op = .enccdma →
    (∀ x ∈ paramInstrs len ++ [(8, .pBearerdata len)],
      (s.msgC.parameterMask.getLsbD x.1 = false → exec x.2 s = .next s) ∧
      (s.msgC.parameterMask.getLsbD x.1 = true → s.wc.ovf = false → s.wc.pos % 8 = 0 →
        ceil8 (body x.1 s.msgC).length ≤ 255 →
        s.wc.pos + (tlv x.1 (body x.1 s.msgC)).length ≤ 8 * s.wc.cap → ∃ m,
        exec x.2 s = .next { s with
          obuf := m, wc := { s.wc with pos := s.wc.pos + (tlv x.1 (body x.1 s.msgC)).length } } ∧
        Holds m s.wc.pos (tlv x.1 (body x.1 s.msgC)) ∧
        KeptOutside s.wc.pos (tlv x.1 (body x.1 s.msgC)).length s.obuf m)) ∧
    ∀ id : Byte, exec (.pUnknown id len) s = .next s

/-- The model's elements (log 11), after R252 to R270: where the body of sub-parameter `sid` stands at RC, its
header stores the slot in B, sets its mask bit and leaves RC at the end of the declared length, clamped to the
end of Bearer Data. -/
def Obligations.SubparameterDecodes : Prop :=
  ∀ (s : State) (v : CdmaBearer) (len : Byte), s.work.op ≠ .enccdma →
    ∀ x ∈ subInstrs len, LengthOk (subExpected x.1) len → SubOk s.cfg x.1 v →
    Holds s.ibuf s.rc.pos (sub x.1 v) → s.rc.pos + (sub x.1 v).length ≤ 8 * s.rc.cap →
    exec x.2 s = .next { s with
      rc := { s.rc with pos := 8 * resyncOctet 0 (min (s.rc.pos / 8 + len.toNat) s.work.bEnd) s.rc.cap }
      work := { s.work with b := withSubBit x.1 (copySub x.1 v s.work.b) } }

/-- The model's elements (log 11), after R251, R271, R244: a kind with no body, an unknown id, a wrong fixed length,
a body that the end of the buffer cuts, wherever it does (R244 (a)), a count whose units do not fit the record (b),
and an encoding with no unit width (c) each set their own DIAG bit and store nothing; RC goes to the end of the
declared length. -/
def Obligations.SubparameterSkipped : Prop :=
  ∀ (s : State) (len : Byte), s.work.op ≠ .enccdma →
    let Skips := fun (i : Instr) (d : Word) => exec i s = .next { s with
      diag := s.diag ||| d
      rc := { s.rc with
        pos := 8 * resyncOctet 0 (min (s.rc.pos / 8 + len.toNat) s.work.bEnd) s.rc.cap } }
    (∀ x ∈ bodilessInstrs len, Skips x.2 1) ∧
    (∀ id : Byte, 23 < id.toNat → Skips (.sUnknown id len) 1) ∧
    (∀ x ∈ subInstrs len, ¬ LengthOk (subExpected x.1) len → Skips x.2 2) ∧
    (∀ x ∈ subInstrs len, LengthOk (subExpected x.1) len →
      8 * s.rc.cap < s.rc.pos + shortestSub x.1 → Skips x.2 4) ∧
    (∀ x ∈ subInstrs len, LengthOk (subExpected x.1) len → ∀ v : CdmaBearer, SubOk s.cfg x.1 v →
      EndsInside s (sub x.1 v) → Skips x.2 4) ∧
    (∀ a : CdmaCallBack, s.cfg.cdmaAddrCap < ceil8 (a.fieldsNumber.toNat * addrUnit a.digitMode) →
      Holds s.ibuf s.rc.pos (callBackHead a) → Skips (.sCallback len) 4) ∧
    (∀ u : CdmaUserData, s.cfg.cdmaUdCap < ceil8 (u.fieldsNumber.toNat * udUnit u.encoding) →
      Holds s.ibuf s.rc.pos (field u.encoding ++ field u.fieldsNumber) → Skips (.sUserdata len) 4) ∧
    (∀ e : BitVec 5, udUnit e = 0 → Holds s.ibuf s.rc.pos (field e) → Skips (.sUserdata len) 4)

/-- The model's elements (log 11), after R310 to R330: while ENCCDMA runs, the header of a sub-parameter whose
mask bit is set writes its TLV at WC, and changes no other bit; one whose bit is clear writes nothing; a kind
with no body is FAULT where its bit is set in a present bearer, and otherwise not written; an unknown one is
never written. A unit past the end of a `chari` list is written as 0, which is the model's reading of R32 (log
17). -/
def Obligations.SubparameterEncodes : Prop :=
  ∀ (s : State) (len : Byte), s.work.op = .enccdma →
    (∀ x ∈ subInstrs len,
      (s.msgC.bearer.subParameterMask.getLsbD x.1 = false → exec x.2 s = .next s) ∧
      (s.msgC.bearer.subParameterMask.getLsbD x.1 = true → s.wc.ovf = false → s.wc.pos % 8 = 0 →
        ceil8 (sub x.1 s.msgC.bearer).length ≤ 255 →
        s.wc.pos + (tlv x.1 (sub x.1 s.msgC.bearer)).length ≤ 8 * s.wc.cap → ∃ m,
        exec x.2 s = .next { s with
          obuf := m, wc := { s.wc with pos := s.wc.pos + (tlv x.1 (sub x.1 s.msgC.bearer)).length } } ∧
        Holds m s.wc.pos (tlv x.1 (sub x.1 s.msgC.bearer)) ∧
        KeptOutside s.wc.pos (tlv x.1 (sub x.1 s.msgC.bearer)).length s.obuf m)) ∧
    (∀ x ∈ bodilessInstrs len,
      (s.msgC.parameterMask.getLsbD 8 = true → s.msgC.bearer.subParameterMask.getLsbD x.1 = true → ∃ t,
        exec x.2 s = .next t ∧ Raised .enccdma .fault s t ∧ t.work = {}) ∧
      (s.msgC.parameterMask.getLsbD 8 = false ∨ s.msgC.bearer.subParameterMask.getLsbD x.1 = false →
        exec x.2 s = .next s)) ∧
    ∀ id : Byte, exec (.sUnknown id len) s = .next s

/-- The model's elements (log 11), after R253: an encoding tag with a unit width reads the rest of the user data
at RC and stores it; a count that does not fit the buffer, a body past the end of IBUF, and a tag with no unit
width set DIAG.BODY_FAIL and store nothing. -/
def Obligations.EncodingDecodes : Prop :=
  ∀ s : State, s.work.op ≠ .enccdma →
    (∀ x ∈ handledTags, ∀ v : CdmaUserData, v.encoding = x.2.1 → UserDataOk s.cfg v →
      Holds s.ibuf s.rc.pos (bits 8 v.fieldsNumber.toNat ++ units x.2.2 v.chari v.fieldsNumber.toNat) →
      s.rc.pos + (8 + x.2.2 * v.fieldsNumber.toNat) ≤ 8 * s.rc.cap →
      exec x.1 s = .next { s with
        rc := { s.rc with pos := s.rc.pos + (8 + x.2.2 * v.fieldsNumber.toNat) }
        work := { s.work with b := withSubBit 1 { s.work.b with userData := v } } }) ∧
    (∀ x ∈ handledTags, ∀ n : Byte, Holds s.ibuf s.rc.pos (bits 8 n.toNat) →
      s.cfg.cdmaUdCap < (n.toNat * x.2.2 + 7) / 8 ∨ 8 * s.rc.cap < s.rc.pos + (8 + x.2.2 * n.toNat) →
      exec x.1 s = .next { s with diag := s.diag ||| 4 }) ∧
    (∀ i ∈ [Instr.udEpm, .udShiftjis, .udKorean, .udGsmdcs], exec i s = .next { s with diag := s.diag ||| 4 }) ∧
    ∀ tag : BitVec 5, 10 < tag.toNat → exec (.udUndefined tag) s = .next { s with diag := s.diag ||| 4 }

/-- The model's elements (log 11), after R312: while ENCCDMA runs, an encoding tag with a unit width writes
itself, the count and the units of the record's user data; a tag with none ends the operation UNSUPPORTED. A
unit past the end of a `chari` list is written as 0, which is the model's reading of R32 (log 17). -/
def Obligations.EncodingEncodes : Prop :=
  ∀ s : State, s.work.op = .enccdma →
    let u := s.msgC.bearer.userData
    (∀ x ∈ handledTags, s.wc.pos + (13 + x.2.2 * u.fieldsNumber.toNat) ≤ 8 * s.wc.cap → ∃ m,
      exec x.1 s = .next { s with
        obuf := m, wc := { s.wc with pos := s.wc.pos + (13 + x.2.2 * u.fieldsNumber.toNat) } } ∧
      Holds m s.wc.pos (bits 5 x.2.1.toNat ++ bits 8 u.fieldsNumber.toNat ++
        units x.2.2 u.chari u.fieldsNumber.toNat) ∧
      KeptOutside s.wc.pos (13 + x.2.2 * u.fieldsNumber.toNat) s.obuf m) ∧
    (∀ i ∈ [Instr.udEpm, .udShiftjis, .udKorean, .udGsmdcs], ∃ t,
      exec i s = .next t ∧ Raised .enccdma .unsupported s t ∧ t.work = {}) ∧
    ∀ tag : BitVec 5, 10 < tag.toNat → ∃ t,
      exec (.udUndefined tag) s = .next t ∧ Raised .enccdma .unsupported s t ∧ t.work = {}

end
end

