-- ==== Sys2Proof/Laws/Memory.lean ====
section
/-! SUPPORT. The laws of the octet spaces: a read after a write, the frame of every memory operation, and the canonical
form, which every memory operation keeps and reset has. -/

namespace Sys2Proof.Machine

/-! ### Reads after writes -/

theorem memRead_memInsert (m : Memory) (x : Nat) (v : Byte) (y : Nat) :
    memRead (memInsert m x v) y = if y = x then v else memRead m y := by
  induction m with
  | nil => simp only [memInsert, memRead]; split <;> split <;> simp_all
  | cons c m ih =>
    obtain ⟨a, b⟩ := c
    simp only [memInsert]
    split
    · simp only [memRead, @eq_comm _ y x]
    · split
      · simp only [memRead]; subst_vars; split <;> split <;> first | rfl | omega
      · simp only [memRead, ih]; split <;> split <;> first | rfl | omega

theorem memRead_filter (p : Host.Cell → Bool) (m : Memory) (y : Nat) (q : Bool)
    (h : ∀ b, p (y, b) = q) : memRead (m.filter p) y = if q then memRead m y else 0 := by
  induction m with
  | nil => simp [memRead]
  | cons c m ih =>
    obtain ⟨a, b⟩ := c
    by_cases hy : a = y
    · subst hy; cases q <;> simp [h, memRead] at ih ⊢
      exact ih
    · by_cases hp : p (a, b) = true <;> simp [hp, memRead, hy, ih]

/-- What `buf[x] <- v` can do, said once: octet `x` reads `v`, every other octet as before. -/
theorem memRead_memWrite (m : Memory) (x : Nat) (v : Byte) (y : Nat) :
    memRead (memWrite m x v) y = if y = x then v else memRead m y := by
  unfold memWrite
  split
  · rw [memRead_filter _ _ _ (decide (y ≠ x)) (fun b => rfl)]
    by_cases h : y = x <;> simp_all
  · exact memRead_memInsert m x v y

@[simp] theorem memRead_memWrite_same (m : Memory) (x : Nat) (v : Byte) : memRead (memWrite m x v) x = v := by
  simp [memRead_memWrite]

theorem memRead_memWrite_other (m : Memory) (x : Nat) (v : Byte) (y : Nat) (h : y ≠ x) :
    memRead (memWrite m x v) y = memRead m y := by simp [memRead_memWrite, h]

theorem memRead_memOctets (a : Nat) (l : List Byte) (m : Memory) (y : Nat)
    (hm : ∀ c ∈ m, a + l.length ≤ c.1) (y_lt : y < a + l.length) :
    memRead (memOctets a l ++ m) y = if y < a then 0 else l.getD (y - a) 0 := by
  induction l generalizing a with
  | nil =>
    simp only [List.length_nil, Nat.add_zero] at hm y_lt
    simp only [memOctets, List.nil_append, y_lt, if_true]
    induction m with
    | nil => rfl
    | cons c m ih =>
      have := hm c (by simp)
      simp only [memRead, if_neg (show ¬ c.1 = y by omega)]
      exact ih (fun d hd => hm d (by simp [hd]))
  | cons b l ih =>
    simp only [List.length_cons] at hm y_lt
    have key := ih (a + 1) (fun c hc => by have := hm c hc; omega) (by omega)
    simp only [memOctets]
    by_cases hb : b = 0
    · simp only [hb, if_true, key]
      by_cases h1 : y < a
      · simp [h1, show y < a + 1 by omega]
      · by_cases h2 : y = a
        · subst h2; simp
        · simp only [if_neg h1, if_neg (show ¬ y < a + 1 by omega)]
          rw [show y - a = (y - (a + 1)) + 1 by omega]; simp
    · simp only [hb, if_false, List.cons_append, memRead]
      by_cases h2 : a = y
      · subst h2; simp
      · simp only [if_neg h2, key]
        by_cases h1 : y < a
        · simp [h1, show y < a + 1 by omega]
        · simp only [if_neg h1, if_neg (show ¬ y < a + 1 by omega)]
          rw [show y - a = (y - (a + 1)) + 1 by omega]; simp

theorem memRead_append_high (a : Nat) (l : List Byte) (m : Memory) (y : Nat) (h : a + l.length ≤ y) :
    memRead (memOctets a l ++ m) y = memRead m y := by
  induction l generalizing a with
  | nil => rfl
  | cons b l ih =>
    simp only [List.length_cons] at h
    simp only [memOctets]
    split
    · exact ih (a + 1) (by omega)
    · simp only [List.cons_append, memRead, if_neg (show ¬ a = y by omega)]
      exact ih (a + 1) (by omega)

/-- What `buf[0 .. n-1] <- l` can do, said once: the first octets read `l`, the rest as before. -/
theorem memRead_memSetPrefix (m : Memory) (l : List Byte) (y : Nat) :
    memRead (memSetPrefix m l) y = if y < l.length then l.getD y 0 else memRead m y := by
  unfold memSetPrefix
  split
  · rw [memRead_memOctets 0 l _ y (fun c hc => by simpa using (List.mem_filter.1 hc).2) (by omega)]
    simp
  · rw [memRead_append_high 0 l _ y (by omega),
      memRead_filter _ _ _ (decide (l.length ≤ y)) (fun b => rfl)]
    simp; omega

@[simp] theorem memSlice_length (m : Memory) (i n : Nat) : (memSlice m i n).length = n := by
  simp [memSlice]

theorem memSlice_getD (m : Memory) (i n k : Nat) (h : k < n) : (memSlice m i n).getD k 0 = memRead m (i + k) := by
  simp [memSlice, List.getD_eq_getElem?_getD, h]

@[simp] theorem fillTo_length (f : Nat → Byte) (cap : Nat) (l : List Byte) : (fillTo f cap l).length = cap := by
  simp [fillTo]; omega

theorem fillTo_getD (f : Nat → Byte) (cap : Nat) (l : List Byte) (k : Nat) (d : Byte) (hk : k < l.length)
    (hl : l.length ≤ cap) : (fillTo f cap l).getD k d = l.getD k d := by
  unfold fillTo
  rw [List.take_of_length_le hl]
  simp [List.getD_eq_getElem?_getD, List.getElem?_append_left hk]

/-! ### The canonical form -/

theorem wf_cons (a : Nat) (b : Byte) (m : Memory) :
    Memory.wf ((a, b) :: m) = true ↔ b ≠ 0 ∧ (∀ c ∈ m, a < c.1) ∧ Memory.wf m = true := by
  simp [Memory.wf, and_assoc]

theorem wf_filter (p : Host.Cell → Bool) (m : Memory) (h : Memory.wf m = true) : Memory.wf (m.filter p) = true := by
  induction m with
  | nil => rfl
  | cons c m ih =>
    obtain ⟨a, b⟩ := c
    rw [wf_cons] at h
    rw [List.filter_cons]
    split
    · rw [wf_cons]
      exact ⟨h.1, fun d hd => h.2.1 d (List.mem_filter.1 hd).1, ih h.2.2⟩
    · exact ih h.2.2

theorem mem_memInsert (m : Memory) (x : Nat) (v : Byte) (c : Host.Cell) (h : c ∈ memInsert m x v) :
    c = (x, v) ∨ c ∈ m := by
  induction m with
  | nil => simpa [memInsert] using h
  | cons d m ih =>
    obtain ⟨a, b⟩ := d
    simp only [memInsert] at h
    split at h
    · simpa using h
    · split at h
      · rcases List.mem_cons.1 h with h | h
        · exact .inl h
        · exact .inr (List.mem_cons_of_mem _ h)
      · rcases List.mem_cons.1 h with h | h
        · exact .inr (by simp [h])
        · rcases ih h with h | h
          · exact .inl h
          · exact .inr (List.mem_cons_of_mem _ h)

theorem wf_memInsert (m : Memory) (x : Nat) (v : Byte) (hv : v ≠ 0) (h : Memory.wf m = true) :
    Memory.wf (memInsert m x v) = true := by
  induction m with
  | nil => simpa [memInsert, Memory.wf] using hv
  | cons c m ih =>
    obtain ⟨a, b⟩ := c
    have h' := (wf_cons a b m).1 h
    simp only [memInsert]
    split
    · rw [wf_cons]
      refine ⟨hv, fun d hd => ?_, h⟩
      rcases List.mem_cons.1 hd with hd | hd
      · subst hd; assumption
      · have := h'.2.1 d hd; omega
    · split
      · subst_vars; rw [wf_cons]; exact ⟨hv, h'.2.1, h'.2.2⟩
      · rw [wf_cons]
        refine ⟨h'.1, fun d hd => ?_, ih h'.2.2⟩
        rcases mem_memInsert m x v d hd with hd | hd
        · subst hd; simp; omega
        · exact h'.2.1 d hd

/-- A write keeps the canonical form. -/
theorem wf_memWrite (m : Memory) (x : Nat) (v : Byte) (h : Memory.wf m = true) :
    Memory.wf (memWrite m x v) = true := by
  unfold memWrite
  split
  · exact wf_filter _ m h
  · exact wf_memInsert m x v (by assumption) h

theorem mem_memOctets (a : Nat) (l : List Byte) (c : Host.Cell) (h : c ∈ memOctets a l) :
    a ≤ c.1 ∧ c.1 < a + l.length := by
  induction l generalizing a with
  | nil => simp [memOctets] at h
  | cons b l ih =>
    simp only [memOctets] at h
    simp only [List.length_cons]
    split at h
    · have := ih (a + 1) h; omega
    · rcases List.mem_cons.1 h with h | h
      · subst h; simp
      · have := ih (a + 1) h; omega

theorem wf_memOctets_append (a : Nat) (l : List Byte) (m : Memory) (hm : Memory.wf m = true)
    (hl : ∀ c ∈ m, a + l.length ≤ c.1) : Memory.wf (memOctets a l ++ m) = true := by
  induction l generalizing a with
  | nil => simpa [memOctets] using hm
  | cons b l ih =>
    simp only [List.length_cons] at hl
    have key := ih (a + 1) (fun c hc => by have := hl c hc; omega)
    simp only [memOctets]
    split
    · exact key
    · rw [List.cons_append, wf_cons]
      refine ⟨by assumption, fun c hc => ?_, key⟩
      rcases List.mem_append.1 hc with hc | hc
      · have := mem_memOctets (a + 1) l c hc; omega
      · have := hl c hc; omega

/-- A run of writes from index 0 keeps the canonical form. -/
theorem wf_memSetPrefix (m : Memory) (l : List Byte) (h : Memory.wf m = true) :
    Memory.wf (memSetPrefix m l) = true :=
  wf_memOctets_append 0 l _ (wf_filter _ m h) (fun c hc => by simpa using (List.mem_filter.1 hc).2)

/-- The buffers of the reset state are in canonical form. -/
theorem reset_wf : Memory.wf State.reset.ibuf = true ∧ Memory.wf State.reset.obuf = true := ⟨rfl, rfl⟩

/-! ### The capacity -/

theorem memBelow_iff (cap : Nat) (m : Memory) : memBelow cap m = true ↔ ∀ c ∈ m, c.1 < cap := by
  simp [memBelow]

/-- A write below the capacity stays below it. -/
theorem memBelow_memWrite (cap : Nat) (m : Memory) (x : Nat) (v : Byte) (hx : x < cap)
    (h : memBelow cap m = true) : memBelow cap (memWrite m x v) = true := by
  rw [memBelow_iff] at h ⊢
  intro c hc
  unfold memWrite at hc
  split at hc
  · exact h c (List.mem_filter.1 hc).1
  · rcases mem_memInsert m x v c hc with hc | hc
    · subst hc; exact hx
    · exact h c hc

/-- A run of writes within the capacity stays below it. -/
theorem memBelow_memSetPrefix (cap : Nat) (m : Memory) (l : List Byte) (hl : l.length ≤ cap)
    (h : memBelow cap m = true) : memBelow cap (memSetPrefix m l) = true := by
  rw [memBelow_iff] at h ⊢
  intro c hc
  rcases List.mem_append.1 hc with hc | hc
  · have := mem_memOctets 0 l c hc; omega
  · exact h c (List.mem_filter.1 hc).1

/-! ### The host's load of IBUF -/

/-- What loading IBUF can do: the octets given stand at the start, as many as IBUF has room for; the others keep their
value. -/
theorem memRead_hostLoadIbuf (l : List Byte) (s : State) (y : Nat) :
    memRead (hostLoadIbuf l s).ibuf y =
      if y < min s.cfg.ibufCap l.length then (l.take s.cfg.ibufCap).getD y 0 else memRead s.ibuf y := by
  simp [hostLoadIbuf, memRead_memSetPrefix]

/-- Loading IBUF keeps its canonical form and its bound, whatever is loaded. -/
theorem wf_hostLoadIbuf (l : List Byte) (s : State) (h : Memory.wf s.ibuf = true)
    (hb : memBelow s.cfg.ibufCap s.ibuf = true) :
    Memory.wf (hostLoadIbuf l s).ibuf = true ∧ memBelow s.cfg.ibufCap (hostLoadIbuf l s).ibuf = true :=
  ⟨wf_memSetPrefix _ _ h, memBelow_memSetPrefix _ _ _ (by simp) hb⟩

end Sys2Proof.Machine
end

