-- ==== Sys2Proof/Laws/Bits.lean ====
section
/-! SUPPORT. The laws of the bit streams: what setting one bit and writing a field can do, and that a field reads back
as it was written. -/

namespace Sys2Proof.Machine

/-! ### One bit -/

/-- Setting bit `k` of an octet sets that bit and no other. -/
theorem getLsbD_setOctetBit (x : Byte) (k j : Nat) (b : Bool) (hj : j < 8) :
    (setOctetBit x k b).getLsbD j = if j = k then b else x.getLsbD j := by
  unfold setOctetBit
  have hp : (BitVec.ofNat 8 (2 ^ k)).getLsbD j = decide (k = j) := by
    rw [BitVec.getLsbD_ofNat, Nat.testBit_two_pow]; simp [hj]
  cases b
  · simp only [Bool.false_eq_true, if_false, BitVec.getLsbD_and, BitVec.getLsbD_not, hp, hj]
    by_cases h : j = k
    · simp [h]
    · simp [h, Ne.symm h]
  · simp only [if_true, BitVec.getLsbD_or, hp]
    by_cases h : j = k
    · simp [h]
    · simp [h, Ne.symm h]

/-- What setting stream bit `p` can do, said once: bit `p` takes the value, every other bit keeps its own. -/
theorem streamBit_setStreamBit (m : Memory) (p : Nat) (b : Bool) (q : Nat) :
    streamBit (setStreamBit m p b) q = if q = p then b else streamBit m q := by
  unfold setStreamBit streamBit
  rw [memRead_memWrite]
  by_cases h : q / 8 = p / 8
  · rw [if_pos h, getLsbD_setOctetBit _ _ _ _ (by omega), h]
    by_cases hq : q = p
    · simp [hq]
    · rw [if_neg hq, if_neg (by omega)]
  · rw [if_neg h, if_neg (by rintro rfl; exact h rfl)]

/-- Setting stream bit `p` leaves every octet but `p div 8` alone. -/
theorem memRead_setStreamBit (m : Memory) (p : Nat) (b : Bool) (a : Nat) (h : a ≠ p / 8) :
    memRead (setStreamBit m p b) a = memRead m a := memRead_memWrite_other _ _ _ _ h

/-! ### A field -/

/-- What `putBits m p v n` can do, said once: stream bit `p + i` is bit `n - 1 - i` of `v`, every bit outside
`p .. p+n-1` keeps its value. -/
theorem streamBit_putBits (m : Memory) (p v n q : Nat) :
    streamBit (putBits m p v n) q =
      if p ≤ q ∧ q < p + n then v.testBit (n - 1 - (q - p)) else streamBit m q := by
  induction n generalizing v with
  | zero => rw [putBits, if_neg (by omega)]
  | succ n ih =>
    rw [putBits, streamBit_setStreamBit, ih]
    by_cases h : q = p + n
    · subst h
      rw [if_pos rfl, if_pos (by omega), show n + 1 - 1 - (p + n - p) = 0 by omega, Nat.testBit_zero]
    · rw [if_neg h]
      by_cases h2 : p ≤ q ∧ q < p + n
      · rw [if_pos h2, if_pos (by omega), show n + 1 - 1 - (q - p) = (n - 1 - (q - p)) + 1 by omega,
          Nat.testBit_succ]
      · rw [if_neg h2, if_neg (by omega)]

/-- A field leaves every octet outside it alone. -/
theorem memRead_putBits (m : Memory) (p v n a : Nat) (h : ∀ q, p ≤ q → q < p + n → q / 8 ≠ a) :
    memRead (putBits m p v n) a = memRead m a := by
  induction n generalizing v with
  | zero => rfl
  | succ n ih =>
    rw [putBits, memRead_setStreamBit _ _ _ _ (Ne.symm (h (p + n) (by omega) (by omega)))]
    exact ih _ (fun q h1 h2 => h q h1 (by omega))

/-- Reading depends on the bits read alone. -/
theorem readBits_congr (m m' : Memory) (p n : Nat)
    (h : ∀ i, i < n → streamBit m (p + i) = streamBit m' (p + i)) : readBits m p n = readBits m' p n := by
  induction n with
  | zero => rfl
  | succ n ih => rw [readBits, readBits, ih (fun i hi => h i (by omega)), h n (by omega)]

theorem readBits_lt (m : Memory) (p n : Nat) : readBits m p n < 2 ^ n := by
  induction n with
  | zero => simp [readBits]
  | succ n ih => rw [readBits, pow_succ]; have := Bool.toNat_le (streamBit m (p + n)); omega

/-- A field reads back as it was written, cut to its width. -/
theorem readBits_putBits (m : Memory) (p v n : Nat) : readBits (putBits m p v n) p n = v % 2 ^ n := by
  induction n generalizing v with
  | zero => simp [readBits, Nat.mod_one]
  | succ n ih =>
    have h1 : readBits (putBits m p v (n + 1)) p n = readBits (putBits m p (v / 2) n) p n :=
      readBits_congr _ _ _ _ (fun i hi => by rw [putBits, streamBit_setStreamBit, if_neg (by omega)])
    rw [readBits, h1, ih, putBits, streamBit_setStreamBit, if_pos rfl, pow_succ, Nat.mul_comm (2 ^ n) 2,
      Nat.mod_mul]
    rcases Nat.mod_two_eq_zero_or_one v with h | h
    · simp [h]
    · simp [h]; omega

/-- A field written elsewhere does not change what a field reads. -/
theorem readBits_putBits_disjoint (m : Memory) (p v n p' n' : Nat) (h : p' + n' ≤ p ∨ p + n ≤ p') :
    readBits (putBits m p v n) p' n' = readBits m p' n' :=
  readBits_congr _ _ _ _ (fun i hi => by rw [streamBit_putBits, if_neg (by omega)])

/-- Two fields read one after the other are one field. -/
theorem readBits_add (m : Memory) (p a b : Nat) :
    readBits m p (a + b) = readBits m p a * 2 ^ b + readBits m (p + a) b := by
  induction b with
  | zero => simp [readBits]
  | succ b ih => rw [← Nat.add_assoc, readBits, ih, readBits, pow_succ, Nat.add_assoc p a b]; ring

/-! ### The canonical form and the capacity -/

theorem wf_setStreamBit (m : Memory) (p : Nat) (b : Bool) (h : Memory.wf m = true) :
    Memory.wf (setStreamBit m p b) = true := wf_memWrite _ _ _ h

theorem wf_putBits (m : Memory) (p v n : Nat) (h : Memory.wf m = true) : Memory.wf (putBits m p v n) = true := by
  induction n generalizing v with
  | zero => exact h
  | succ n ih => exact wf_setStreamBit _ _ _ (ih _)

theorem memBelow_putBits (cap : Nat) (m : Memory) (p v n : Nat) (hn : p + n ≤ 8 * cap)
    (h : memBelow cap m = true) : memBelow cap (putBits m p v n) = true := by
  induction n generalizing v with
  | zero => exact h
  | succ n ih => exact memBelow_memWrite _ _ _ _ (by omega) (ih _ (by omega))

end Sys2Proof.Machine
end

