-- ==== Sys2Proof/Laws/Cursor.lean ====
section
/-! SUPPORT. What each cursor operation can do, said once; callers cite these and unfold none of them. -/

namespace Sys2Proof.Machine

theorem ceil8_mul (n : Nat) : n ≤ 8 * ceil8 n ∧ 8 * ceil8 n < n + 8 := by unfold ceil8; omega

theorem ceil8_le (n k : Nat) (h : n ≤ 8 * k) : ceil8 n ≤ k := by unfold ceil8; omega

/-! ### The read cursor -/

/-- `rd(n)` answers the bits at the position and moves past them, where they are within the capacity. -/
theorem rd_some {ib : Memory} {n : Nat} {c c' : ReadCursor} {v : BitVec n} (h : rd ib n c = some (v, c')) :
    c.pos + n ≤ 8 * c.cap ∧ v = BitVec.ofNat n (readBits ib c.pos n) ∧ c' = { c with pos := c.pos + n } := by
  unfold rd at h
  split at h
  · cases h
  · simp only [Option.some.injEq, Prod.mk.injEq] at h
    exact ⟨by omega, h.1.symm, h.2.symm⟩

/-- `rd(n)` fails exactly where the bits would pass the capacity. -/
theorem rd_none {ib : Memory} {n : Nat} {c : ReadCursor} : rd ib n c = none ↔ 8 * c.cap < c.pos + n := by
  unfold rd; split <;> simp_all

theorem rd_eq {ib : Memory} {n : Nat} {c : ReadCursor} (h : c.pos + n ≤ 8 * c.cap) :
    rd ib n c = some (BitVec.ofNat n (readBits ib c.pos n), { c with pos := c.pos + n }) := by
  unfold rd; rw [if_neg (by omega)]

@[simp] theorem seek_cap (b : Nat) (c : ReadCursor) : (seek b c).cap = c.cap := rfl
@[simp] theorem seek_isOpen (b : Nat) (c : ReadCursor) : (seek b c).isOpen = c.isOpen := rfl
@[simp] theorem seek_pos (b : Nat) (c : ReadCursor) : (seek b c).pos = 8 * min b c.cap := rfl
@[simp] theorem skipb_cap (c : ReadCursor) : (skipb c).cap = c.cap := rfl
@[simp] theorem skipb_isOpen (c : ReadCursor) : (skipb c).isOpen = c.isOpen := rfl
@[simp] theorem skipb_pos (c : ReadCursor) : (skipb c).pos = 8 * ceil8 c.pos := rfl

/-- SKIPB keeps the cursor within its capacity. -/
theorem skipb_within {c : ReadCursor} (h : c.pos ≤ 8 * c.cap) : (skipb c).pos ≤ 8 * (skipb c).cap := by
  have := ceil8_le c.pos c.cap h; simp; omega

/-- RCSEEK leaves the cursor within its capacity. -/
theorem seek_within (b : Nat) (c : ReadCursor) : (seek b c).pos ≤ 8 * (seek b c).cap := by simp

/-! ### The write cursor -/

/-- The write stream stays in order: the position within the capacity, the buffer in canonical form and within
`lim` octets. -/
structure WStream.Good (lim : Nat) (w : WStream) : Prop where
  pos : w.wc.pos ≤ 8 * w.wc.cap
  cap : w.wc.cap ≤ lim
  form : Memory.wf w.buf = true
  bound : memBelow lim w.buf = true

/-- `wr` refused whole: only `ovf` changes. -/
theorem wr_full {v n : Nat} {w : WStream} (h : 8 * w.wc.cap < w.wc.pos + n) :
    wr v n w = { w with wc := { w.wc with ovf := true } } := if_pos h

/-- `wr` done: the field stands at the position, which moves past it. -/
theorem wr_fits {v n : Nat} {w : WStream} (h : w.wc.pos + n ≤ 8 * w.wc.cap) :
    wr v n w = { wc := { w.wc with pos := w.wc.pos + n }, buf := putBits w.buf w.wc.pos v n } :=
  if_neg (by omega)

/-- `w'` may come after `w` in a run of writes: the cursor stays open or closed with its capacity, it does not move
back, a set overflow flag stays set (R28), octets wholly behind the cursor and octets at the capacity and above keep
their value (R61), and the stream stays in order. -/
structure WStream.Later (w w' : WStream) : Prop where
  isOpen : w'.wc.isOpen = w.wc.isOpen
  cap : w'.wc.cap = w.wc.cap
  pos : w.wc.pos ≤ w'.wc.pos
  ovf : w.wc.ovf = true → w'.wc.ovf = true
  behind : ∀ a, 8 * a + 8 ≤ w.wc.pos → memRead w'.buf a = memRead w.buf a
  within : w.wc.pos ≤ 8 * w.wc.cap → w'.wc.pos ≤ 8 * w'.wc.cap
  above : w.wc.pos ≤ 8 * w.wc.cap → ∀ a, w.wc.cap ≤ a → memRead w'.buf a = memRead w.buf a
  good : ∀ lim, w.Good lim → w'.Good lim

theorem WStream.Later.refl (w : WStream) : w.Later w :=
  ⟨rfl, rfl, le_refl _, id, fun _ _ => rfl, id, fun _ _ _ => rfl, fun _ h => h⟩

theorem WStream.Later.trans {a b c : WStream} (h : a.Later b) (h' : b.Later c) : a.Later c where
  isOpen := h'.isOpen.trans h.isOpen
  cap := h'.cap.trans h.cap
  pos := le_trans h.pos h'.pos
  ovf := fun x => h'.ovf (h.ovf x)
  behind := fun x hx => (h'.behind x (le_trans hx h.pos)).trans (h.behind x hx)
  within := fun h0 => h'.within (h.within h0)
  above := fun h0 x hx => (h'.above (h.within h0) x (by rw [h.cap]; exact hx)).trans (h.above h0 x hx)
  good := fun lim g => h'.good lim (h.good lim g)

/-- What `wr` can do, said once (R143, R148). -/
theorem wr_later (v n : Nat) (w : WStream) : w.Later (wr v n w) := by
  by_cases hf : 8 * w.wc.cap < w.wc.pos + n
  · rw [wr_full hf]
    exact ⟨rfl, rfl, le_refl _, fun _ => rfl, fun _ _ => rfl, id, fun _ _ _ => rfl,
      fun _ h => ⟨h.pos, h.cap, h.form, h.bound⟩⟩
  · rw [wr_fits (by omega)]
    refine ⟨rfl, rfl, Nat.le_add_right _ _, id, fun a ha => memRead_putBits _ _ _ _ _ (fun q h1 h2 => by omega),
      fun h0 => by simp only; omega, fun h0 a ha => memRead_putBits _ _ _ _ _ (fun q h1 h2 => by omega),
      fun lim h => ?_⟩
    have := h.cap
    exact ⟨by simp only; omega, h.cap, wf_putBits _ _ _ _ h.form, memBelow_putBits _ _ _ _ _ (by omega) h.bound⟩

/-- What `flush` can do, said once (R145). -/
theorem flushBits_later (w : WStream) : w.Later (flushBits w) := by
  have h1 := ceil8_mul w.wc.pos
  refine ⟨rfl, rfl, h1.1, id, fun a ha => memRead_putBits _ _ _ _ _ (fun q h2 h3 => by omega),
    fun h0 => ?_, fun h0 a ha => memRead_putBits _ _ _ _ _ (fun q h2 h3 => ?_), fun lim h => ?_⟩
  · have := ceil8_le w.wc.pos w.wc.cap h0; simp only [flushBits]; omega
  · have := ceil8_le w.wc.pos w.wc.cap h0; omega
  · have h2 := ceil8_le w.wc.pos w.wc.cap h.pos
    have h3 := h.cap
    exact ⟨by simp only [flushBits]; omega, h.cap, wf_putBits _ _ _ _ h.form,
      memBelow_putBits _ _ _ _ _ (by omega) h.bound⟩

/-- `wr` touches no stream bit behind the position. -/
theorem streamBit_wr (v n : Nat) (w : WStream) (q : Nat) (h : q < w.wc.pos) :
    streamBit (wr v n w).buf q = streamBit w.buf q := by
  unfold wr
  split
  · rfl
  · simp only; rw [streamBit_putBits, if_neg (by omega)]

theorem good_patch {lim : Nat} {w : WStream} (b v : Nat) (hb : 8 * b + 8 ≤ w.wc.pos) (h : w.Good lim) :
    (patch b v w).Good lim := by
  have := h.pos; have := h.cap
  exact ⟨h.pos, h.cap, wf_memWrite _ _ _ h.form, memBelow_memWrite _ _ _ _ (by omega) h.bound⟩

@[simp] theorem flushBits_cap (w : WStream) : (flushBits w).wc.cap = w.wc.cap := rfl
@[simp] theorem flushBits_pos (w : WStream) : (flushBits w).wc.pos = 8 * ceil8 w.wc.pos := rfl
@[simp] theorem flushBits_ovf (w : WStream) : (flushBits w).wc.ovf = w.wc.ovf := rfl
@[simp] theorem flushBits_isOpen (w : WStream) : (flushBits w).wc.isOpen = w.wc.isOpen := rfl
@[simp] theorem patch_wc (b v : Nat) (w : WStream) : (patch b v w).wc = w.wc := rfl

/-- `flush` writes zero bits up to the next octet boundary and touches no other. -/
theorem streamBit_flushBits (w : WStream) (q : Nat) :
    streamBit (flushBits w).buf q =
      if w.wc.pos ≤ q ∧ q < 8 * ceil8 w.wc.pos then false else streamBit w.buf q := by
  have := ceil8_mul w.wc.pos
  unfold flushBits
  rw [streamBit_putBits]
  by_cases h : w.wc.pos ≤ q ∧ q < 8 * ceil8 w.wc.pos
  · rw [if_pos h, if_pos (by omega), Nat.zero_testBit]
  · rw [if_neg h, if_neg (by omega)]

/-- `patch` writes octet `b` and no other. -/
theorem memRead_patch (b v : Nat) (w : WStream) (a : Nat) :
    memRead (patch b v w).buf a = if a = b then low8 v else memRead w.buf a := memRead_memWrite _ _ _ _

/-- ENCCDMA opens its cursor in order. -/
theorem good_openW {lim cap : Nat} {buf : Memory} (hc : cap ≤ lim) (hf : Memory.wf buf = true)
    (hb : memBelow lim buf = true) : (openW cap buf).Good lim :=
  ⟨Nat.zero_le _, hc, wf_memSetPrefix _ _ hf, memBelow_memSetPrefix _ _ _ (by simpa using hc) hb⟩

end Sys2Proof.Machine
end

