-- ==== Sys2Proof/Laws/Cdma.lean ====
section
/-! SUPPORT. What the parts of the CDMA codec can do, each said once: the decoder's cursor is always resynchronised
within the capacity, its loops are given enough fuel, and the encoder's stream stays in order. -/

namespace Sys2Proof.Machine

/-! ### The decoder -/

/-- What one sub-parameter can do: capacity, end, record and format are kept; the cursor stands at the declared end;
DIAG only gains bits of R33; the mask only gains a bit. -/
theorem decodeSub_rc (c : Config) (ib : Memory) (sid slen : Nat) (x : DecodeCtx) :
    (decodeSub c ib sid slen x).rc =
      { x.rc with pos := 8 * min (min (x.rc.pos / 8 + slen) x.bEnd) x.rc.cap } := by
  unfold decodeSub resync flagDiag seek
  repeat' split
  all_goals rfl

theorem decodeSub_bEnd (c : Config) (ib : Memory) (sid slen : Nat) (x : DecodeCtx) :
    (decodeSub c ib sid slen x).bEnd = x.bEnd := by
  unfold decodeSub resync flagDiag
  repeat' split
  all_goals rfl

theorem decodeSub_m (c : Config) (ib : Memory) (sid slen : Nat) (x : DecodeCtx) :
    (decodeSub c ib sid slen x).m = x.m := by
  unfold decodeSub resync flagDiag
  repeat' split
  all_goals rfl

/-- DIAG of one sub-parameter: as before, or with one of three bits. -/
theorem decodeSub_diag (c : Config) (ib : Memory) (sid slen : Nat) (x : DecodeCtx) :
    (decodeSub c ib sid slen x).diag = x.diag ∨
      ∃ b ∈ [diagUnknownId, diagLenMismatch, diagBodyFail], (decodeSub c ib sid slen x).diag = x.diag ||| b := by
  unfold decodeSub resync flagDiag
  repeat' split
  all_goals simp

/-- A body that decodes moves the cursor within the capacity and keeps the capacity. -/
theorem rd_within {ib : Memory} {n : Nat} {c c' : ReadCursor} {v : BitVec n} (h : rd ib n c = some (v, c')) :
    c'.cap = c.cap ∧ c'.isOpen = c.isOpen ∧ c.pos ≤ c'.pos ∧ c'.pos ≤ 8 * c'.cap := by
  obtain ⟨h1, -, rfl⟩ := rd_some h
  exact ⟨rfl, rfl, Nat.le_add_right _ _, h1⟩

theorem subLoop_keeps (c : Config) (ib : Memory) (fuel : Nat) (x : DecodeCtx) :
    (subLoop c ib fuel x).rc.cap = x.rc.cap ∧ (subLoop c ib fuel x).rc.isOpen = x.rc.isOpen ∧
      (subLoop c ib fuel x).bEnd = x.bEnd ∧ (subLoop c ib fuel x).m = x.m := by
  induction fuel generalizing x with
  | zero => exact ⟨rfl, rfl, rfl, rfl⟩
  | succ n ih =>
    rw [subLoop]
    split
    · exact ⟨rfl, rfl, rfl, rfl⟩
    · split
      · exact ⟨rfl, rfl, rfl, rfl⟩
      · simp only [ih]
        rw [decodeSub_rc, decodeSub_bEnd, decodeSub_m]
        exact ⟨rfl, rfl, rfl, rfl⟩

/-- The fuel of D_8 is enough (R251): with the cursor on an octet boundary, any two amounts of at least the octets left
give the same result. -/
theorem subLoop_fuel (c : Config) (ib : Memory) (n k : Nat) (x : DecodeCtx) (hn : x.bEnd - x.rc.pos / 8 ≤ n)
    (hk : x.bEnd - x.rc.pos / 8 ≤ k) (hb : x.bEnd ≤ x.rc.cap) : subLoop c ib n x = subLoop c ib k x := by
  induction n generalizing k x with
  | zero =>
    cases k with
    | zero => rfl
    | succ k => rw [subLoop, subLoop, if_pos (by omega)]
  | succ n ih =>
    cases k with
    | zero => rw [subLoop, subLoop, if_pos (by omega)]
    | succ k =>
      rw [subLoop, subLoop]
      split
      · rfl
      · split
        · rfl
        · refine ih k _ ?_ ?_ ?_ <;> rw [decodeSub_rc] <;> rw [decodeSub_bEnd] <;> simp only <;> omega

/-- What one top-level parameter does to the cursor: it stands at the declared end, whatever the body did. -/
theorem decodeParamBody_rc (c : Config) (ib : Memory) (id len : Nat) (x : DecodeCtx) :
    (decodeParamBody c ib id len x).rc = { x.rc with pos := 8 * min (x.rc.pos / 8 + len) x.rc.cap } := by
  have hB : (decodeBearer c ib len x).rc.cap = x.rc.cap ∧ (decodeBearer c ib len x).rc.isOpen = x.rc.isOpen := by
    have h := subLoop_keeps c ib x.rc.cap { x with b := {}, bEnd := min (x.rc.pos / 8 + len) x.rc.cap }
    exact ⟨h.1, h.2.1⟩
  unfold decodeParamBody resync flagDiag seek
  repeat' split
  all_goals first
    | rfl
    | (simp only [hB.1, hB.2])

/-- The fuel of DECCDMA's loop is enough (R241), in the same sense. -/
theorem paramLoop_fuel (c : Config) (ib : Memory) (n k : Nat) (x : DecodeCtx) (hn : x.rc.cap - x.rc.pos / 8 ≤ n)
    (hk : x.rc.cap - x.rc.pos / 8 ≤ k) : paramLoop c ib n x = paramLoop c ib k x := by
  induction n generalizing k x with
  | zero =>
    cases k with
    | zero => rfl
    | succ k => rw [paramLoop, paramLoop, if_pos (by omega)]
  | succ n ih =>
    cases k with
    | zero => rw [paramLoop, paramLoop, if_pos (by omega)]
    | succ k =>
      rw [paramLoop, paramLoop]
      split
      · rfl
      · split
        · rfl
        · refine ih k _ ?_ ?_ <;> rw [decodeParamBody_rc] <;> simp only <;> omega

/-- The loop keeps the capacity, and ends with the cursor within it. -/
theorem paramLoop_rc (c : Config) (ib : Memory) (n : Nat) (x : DecodeCtx) (h : x.rc.pos ≤ 8 * x.rc.cap) :
    (paramLoop c ib n x).rc.cap = x.rc.cap ∧ (paramLoop c ib n x).rc.isOpen = x.rc.isOpen ∧
      (paramLoop c ib n x).rc.pos ≤ 8 * (paramLoop c ib n x).rc.cap := by
  induction n generalizing x with
  | zero => exact ⟨rfl, rfl, h⟩
  | succ n ih =>
    rw [paramLoop]
    split
    · exact ⟨rfl, rfl, h⟩
    · split
      · exact ⟨rfl, rfl, h⟩
      · have key := ih (decodeParamBody c ib (readBits ib x.rc.pos 8) (readBits ib (x.rc.pos + 8) 8)
          { x with rc := { x.rc with pos := x.rc.pos + 16 } }) (by rw [decodeParamBody_rc]; simp only; omega)
        rw [decodeParamBody_rc] at key
        exact ⟨key.1, key.2.1, key.2.2⟩

/-! ### The encoder -/

theorem wrF_later {n : Nat} {a w : WStream} (v : BitVec n) (h : a.Later w) : a.Later (wrF v w) :=
  h.trans (wr_later _ _ _)

theorem wrUnits_later {k : Nat} (n : Nat) (us : List (BitVec k)) (count : Nat) {a w : WStream} (h : a.Later w) :
    a.Later (wrUnits n us count w) := by
  unfold wrUnits
  generalize List.range count = l
  induction l generalizing w with
  | nil => exact h
  | cons i l ih => exact ih (h.trans (wr_later _ _ _))

theorem wrAddress_later (a : CdmaAddress) (w : WStream) : w.Later (wrAddress a w) := by
  have h2 : w.Later (wrF a.numberMode (wrF a.digitMode w)) := wrF_later _ (wrF_later _ (.refl w))
  have h3 : w.Later (if a.digitMode = 1 then wrF a.numberType (wrF a.numberMode (wrF a.digitMode w))
      else wrF a.numberMode (wrF a.digitMode w)) := by
    split
    · exact wrF_later _ h2
    · exact h2
  refine wrUnits_later _ _ _ (wrF_later _ ?_)
  split
  · exact wrF_later _ h3
  · exact h3

theorem wrSubaddress_later (a : CdmaSubaddress) (w : WStream) : w.Later (wrSubaddress a w) :=
  (wrUnits_later _ _ _ (wrF_later _ (wrF_later _ (wrF_later _ (.refl w))))).trans (wr_later _ _ _)

theorem wrCause_later (a : CdmaCause) (w : WStream) : w.Later (wrCause a w) := by
  have h : w.Later (wrF a.errorClass (wrF a.replySeq w)) := wrF_later _ (wrF_later _ (.refl w))
  unfold wrCause
  dsimp only
  split
  · exact wrF_later _ h
  · exact h

theorem wrDate_later (d : CdmaDate) (w : WStream) : w.Later (wrDate d w) :=
  wrF_later _ (wrF_later _ (wrF_later _ (wrF_later _ (wrF_later _ (wrF_later _ (.refl w))))))

theorem wrCallBack_later (a : CdmaCallBack) (w : WStream) : w.Later (wrCallBack a w) := by
  have h : w.Later (wrF a.digitMode w) := wrF_later _ (.refl w)
  refine wrUnits_later _ _ _ (wrF_later _ ?_)
  split
  · exact wrF_later _ (wrF_later _ h)
  · exact h

theorem wrUserData_later (u : CdmaUserData) (w : WStream) : w.Later (wrUserData u w) :=
  wrUnits_later _ _ _ (wrF_later _ (wrF_later _ (.refl w)))

/-- What a top-level body can do to the stream (R302 to R309). -/
theorem wrParam_later (id : Nat) (m : CdmaPdu) (w : WStream) : w.Later (wrParam id m w) := by
  unfold wrParam
  split
  case h_3 => exact wrAddress_later _ _
  case h_4 => exact wrSubaddress_later _ _
  case h_5 => exact wrAddress_later _ _
  case h_6 => exact wrSubaddress_later _ _
  case h_8 => exact wrCause_later _ _
  case h_9 => exact .refl w
  all_goals exact wrF_later _ (.refl w)

/-- What a sub-parameter's body can do to the stream (R311 to R329). -/
theorem wrSub_later (sid : Nat) (b : CdmaBearer) (w : WStream) : w.Later (wrSub sid b w) := by
  unfold wrSub
  split
  case h_1 => exact wrF_later _ (wrF_later _ (wrF_later _ (.refl w)))
  case h_2 => exact wrUserData_later _ _
  case h_4 => exact wrDate_later _ _
  case h_5 => exact wrDate_later _ _
  case h_7 => exact wrDate_later _ _
  case h_11 => exact wrF_later _ (wrF_later _ (wrF_later _ (wrF_later _ (.refl w))))
  case h_15 => exact wrCallBack_later _ _
  case h_18 => exact wrF_later _ (wrF_later _ (.refl w))
  case h_20 => exact .refl w
  all_goals exact wrF_later _ (.refl w)

/-- The stream of a write that may raise. -/
def Wr.stream (r : Wr) : WStream :=
  match r with
  | .ok w => w
  | .error w => w

@[simp] theorem Wr.stream_ok (w : WStream) : Wr.stream (.ok w) = w := rfl
@[simp] theorem Wr.stream_error (w : WStream) : Wr.stream (.error w) = w := rfl

/-- What a TLV can do to the stream, whether it ends or raises (R301). -/
theorem tlv_later (id : Nat) (body : WStream → Wr) (w : WStream) (hb : ∀ v : WStream, v.Later (body v).stream) :
    w.Later (tlv id body w).stream := by
  have h1 : w.Later (wr id 8 w) := wr_later _ _ _
  have h2 : w.Later (tlvHead id w) := h1.trans (wr_later _ _ _)
  have hv := hb (tlvHead id w)
  unfold tlv
  cases heq : body (tlvHead id w) with
  | error v => rw [heq] at hv; exact h2.trans hv
  | ok v =>
    rw [heq, Wr.stream_ok] at hv
    have hf : w.Later (flushBits v) := (h2.trans hv).trans (flushBits_later _)
    simp only [tlvEnd]
    by_cases hov : (flushBits v).wc.ovf = true
    · rw [if_pos hov]; exact hf
    · rw [if_neg hov]
      split
      · exact hf
      · have hfit : (wr id 8 w).wc.pos + 8 ≤ 8 * (wr id 8 w).wc.cap := by
          by_contra hc
          refine hov (hv.ovf ?_)
          unfold tlvHead; rw [wr_full (by omega)]
        have h3 : (tlvHead id w).wc.pos = (wr id 8 w).wc.pos + 8 := by unfold tlvHead; rw [wr_fits hfit]
        have h4 := hv.pos
        have h5 := h1.pos
        have h6 := h1.cap
        have h7 := ceil8_mul v.wc.pos
        refine ⟨hf.isOpen, hf.cap, hf.pos, hf.ovf, fun a ha => ?_, hf.within, fun h0 a ha => ?_, fun lim g => ?_⟩
        · rw [Wr.stream_ok, memRead_patch, if_neg (by omega)]; exact hf.behind a ha
        · rw [Wr.stream_ok, memRead_patch, if_neg (by omega)]; exact hf.above h0 a ha
        · exact good_patch _ _ (by simp only [flushBits_pos]; omega) (hf.good lim g)

/-- A run over identifiers, if each one only moves the stream on (R300, R310). -/
theorem eachId_later (f : Nat → WStream → Wr) (l : List Nat) (w : WStream)
    (hf : ∀ (i : Nat) (v : WStream), v.Later (f i v).stream) :
    w.Later (eachId f l w).stream := by
  induction l generalizing w with
  | nil => exact .refl w
  | cons i l ih =>
    have h := hf i w
    unfold eachId
    cases heq : f i w with
    | error v => rw [heq] at h; exact h
    | ok v => rw [heq] at h; exact h.trans (ih v)

theorem encodeSub_later (b : CdmaBearer) (sid : Nat) (w : WStream) : w.Later (encodeSub b sid w).stream := by
  unfold encodeSub
  split
  · exact tlv_later _ _ _ (fun v => wrSub_later _ _ _)
  · exact .refl w

/-- What one parameter can do to the stream (R300, R301, R310). -/
theorem encodeParam_later (m : CdmaPdu) (id : Nat) (w : WStream) : w.Later (encodeParam m id w).stream := by
  unfold encodeParam
  split
  · split
    · exact tlv_later _ _ _ (fun v => eachId_later _ _ _ (fun i v => encodeSub_later _ _ _))
    · exact tlv_later _ _ _ (fun v => wrParam_later _ _ _)
  · exact .refl w

/-- What the emission of a whole record can do to the stream (R300). -/
theorem emitRecord_later (m : CdmaPdu) (w : WStream) : w.Later (emitRecord m w).stream :=
  (wrF_later m.format (.refl w)).trans (eachId_later _ _ _ (fun _ _ => encodeParam_later _ _ _))

end Sys2Proof.Machine
end

