-- ==== Sys2Proof/Laws/Config.lean ====
section
/-! SUPPORT. The default parameter record meets what R9 requires, whatever the text of TS_UNKNOWN is. -/

namespace Sys2Proof.Machine

/-- The free text of TS_UNKNOWN is admitted only where it fits its array and is not of the timestamp shape (U8). -/
theorem admitTsUnknown_admits (l : List Byte) :
    (admitTsUnknown l).length ≤ 20 ∧ isTimestampShape (admitTsUnknown l) = false := by
  unfold admitTsUnknown
  split
  · assumption
  · exact ⟨by simp, rfl⟩

/-- The defaults are a well-formed parameter record. -/
theorem defaultConfig_wf : defaultConfig.wf = true := by
  have h1 : defaultConfig.tsUnknown.length + 1 ≤ defaultConfig.tsStrCap :=
    Nat.succ_le_succ (admitTsUnknown_admits Config.freeTsUnknown).1
  have h2 : defaultConfig.a8to7.length = 256 := by decide +kernel
  have h3 : defaultConfig.a7to8.length = 256 := by decide +kernel
  unfold Config.wf
  rw [h2, h3, decide_eq_true h1]
  rfl

end Sys2Proof.Machine
end

