-- ==== Sys2Proof/Laws/Packer.lean ====
section
/-! SUPPORT. What the shared operations of the text, address, timestamp and GSM codecs can answer, each said once. -/

namespace Sys2Proof.Machine

/-! ### Septets -/

theorem getLsbD_octetOf (f : Nat → Bool) (j : Nat) (h : j < 8) : (octetOf f).getLsbD j = f j := by
  rw [octetOf, BitVec.getLsbD_ofBoolListLE]; interval_cases j <;> rfl

theorem getLsbD_septetOf (f : Nat → Bool) (i : Nat) (h : i < 7) : (septetOf f).getLsbD i = f i := by
  rw [septetOf, BitVec.getLsbD_ofBoolListLE]; interval_cases i <;> rfl

@[simp] theorem packSeptets_length (us : List Septet) : (packSeptets us).length = ceil8 (7 * us.length) := by
  simp [packSeptets]

/-- Stream bit `k` of packed septets is bit `k mod 7` of septet `k div 7` (R63). -/
theorem packSeptets_bit (us : List Septet) (k : Nat) (h : k < 8 * ceil8 (7 * us.length)) :
    ((packSeptets us).getD (k / 8) 0).getLsbD (k % 8) = (us.getD (k / 7) 0).getLsbD (k % 7) := by
  have h8 : k / 8 < ceil8 (7 * us.length) := by omega
  simp only [packSeptets, List.getD_eq_getElem?_getD, List.getElem?_map, List.getElem?_range h8, Option.map_some,
    Option.getD_some]
  rw [getLsbD_octetOf _ _ (by omega), Nat.div_add_mod]

/-- A septet reads back as it was packed. -/
theorem septetAt_packSeptets (us : List Septet) (q : Nat) (h : q < us.length) :
    septetAt (packSeptets us) q = us.getD q 0 := by
  refine BitVec.eq_of_getLsbD_eq (fun i hi => ?_)
  have hc : 7 * us.length ≤ 8 * ceil8 (7 * us.length) := by unfold ceil8; omega
  rw [septetAt, getLsbD_septetOf _ _ hi, packSeptets_bit us (7 * q + i) (by omega),
    show (7 * q + i) / 7 = q by omega, show (7 * q + i) % 7 = i by omega]

theorem charUnits_ne_nil (c : Config) (b : Byte) : charUnits c b ≠ [] := by unfold charUnits; split <;> simp

/-- The packer's loop, said once: every character's septets, or OVERFLOW where they do not fit. -/
theorem packUnits_eq (c : Config) (cap : Nat) (l : List Byte) (us : List Septet) (h : 7 * us.length ≤ 8 * cap) :
    packUnits c cap l us =
      if 8 * cap < 7 * (us ++ l.flatMap (charUnits c)).length then .error .overflow
      else .ok (us ++ l.flatMap (charUnits c)) := by
  induction l generalizing us with
  | nil => simp [packUnits]; omega
  | cons b l ih =>
    rw [packUnits]
    split
    · rw [if_pos]; simp at *; omega
    · rw [ih _ (by simp at *; omega)]; simp [List.append_assoc]

/-! ### The text loop -/

theorem putChar_eq (b : Byte) (t : TextWork) :
    putChar b t = if t.cap ≤ t.out.length then .error .overflow else .ok { t with out := t.out ++ [b] } := rfl

/-- What one septet can do: it keeps the capacity, and puts at most one character, within it. -/
theorem takeSeptet_ok {c : Config} {t t' : TextWork} {u : Septet} (h : takeSeptet c t u = .ok t') :
    t'.cap = t.cap ∧ (t' = { t with esc := true } ∨
      ∃ b, t.out.length < t.cap ∧ t' = { t with esc := false, out := t.out ++ [b] }) := by
  unfold takeSeptet extensionSeptet escapeSeptet putChar at h
  split at h
  · split at h
    · cases h
    · cases h; exact ⟨rfl, .inr ⟨_, by simp_all, rfl⟩⟩
  · split at h
    · cases h; exact ⟨rfl, .inl rfl⟩
    · split at h
      · cases h
      · cases h; exact ⟨rfl, .inr ⟨a7to8At c u, by omega, by simp_all⟩⟩

/-! ### Addresses and timestamps -/

theorem semiOctets_length (l : List Byte) : (semiOctets l).length = (l.length + 1) / 2 := by
  fun_induction semiOctets l <;> simp_all; omega

/-- `ENCADDR` answers exactly on a string of digits, with a leading `+` or without, that is not too long. -/
theorem encAddr_eq (c : Config) (l : List Byte) :
    encAddr c l = if (addrDigits l).length ≤ c.addrDigitsMax ∧ (addrDigits l).all isDigit = true then
      .ok (semiOctets (addrDigits l), (addrDigits l).length, toaFor l) else .error .fault := by
  unfold encAddr
  by_cases h : c.addrDigitsMax < (addrDigits l).length
  · rw [if_pos h, if_neg (by omega)]
  · rw [if_neg h]; cases h2 : (addrDigits l).all isDigit <;> simp; omega

theorem mapM_length {α β : Type} (f : α → Option β) (l : List α) {o : List β} (h : l.mapM f = some o) :
    o.length = l.length := by
  induction l generalizing o with
  | nil => simp at h; simp [← h]
  | cons a l ih =>
    simp only [List.mapM_cons, Option.bind_eq_bind, Option.bind_eq_some_iff, Option.pure_def, Option.some.injEq] at h
    obtain ⟨_, _, y, h2, rfl⟩ := h
    simp [ih h2]

/-- An answer of `ENCTS` has seven octets. -/
theorem encTs_length {l o : List Byte} (h : encTs l = .ok o) : o.length = 7 := by
  unfold encTs at h
  repeat' split at h
  all_goals first
    | cases h; done
    | (cases h; simp [mapM_length _ _ (by assumption), tsPositions])

/-! ### The output of ENCGSM -/

/-- `emit` of octets in turn: all of them, or OVERFLOW where they pass PDU_CAP. -/
theorem emitAll_eq (c : Config) (l o : List Byte) (h : o.length ≤ c.pduCap) :
    emitAll c l o = if c.pduCap < o.length + l.length then .error .overflow else .ok (o ++ l) := by
  induction l generalizing o with
  | nil => simp [emitAll]; omega
  | cons b l ih =>
    simp only [emitAll, emit, List.length_cons]
    by_cases hb : c.pduCap ≤ o.length
    · rw [if_pos hb, if_pos (by omega)]
    · rw [if_neg hb]
      simp only [ih (o ++ [b]) (by simp; omega), List.length_append, List.length_cons, List.length_nil,
        List.append_assoc, List.cons_append, List.nil_append, Nat.zero_add, Nat.add_assoc, Nat.add_comm 1]

end Sys2Proof.Machine
end

