-- ==== Sys2Proof/Laws/PerInstr.lean ====
section
/-! SUPPORT. The family EncodeFits: what an instruction's word has room for in its format, one lemma per constructor. -/

namespace Sys2Proof.Laws

/-- A header fits its 16 bits (R102). -/
theorem headerWord_lt (id len : Byte) : (headerWord id len).toNat < 2 ^ 16 := by
  unfold headerWord
  rw [BitVec.toNat_setWidth]
  have h := (id ++ len).isLt
  omega

/-- An octet as a word fits its 8 bits. -/
theorem octetWord_lt (v : Byte) : (v.setWidth 32).toNat < 2 ^ 8 := by
  rw [BitVec.toNat_setWidth]
  have h := v.isLt
  omega

/-- An octet as a word fits the command register. -/
theorem octetWord_lt_cmd (v : Byte) : (v.setWidth 32).toNat < 2 ^ 32 := by
  have h := octetWord_lt v
  omega

/-- An encoding tag as a word fits its 5 bits. -/
theorem tagWord_lt (t : BitVec 5) : (t.setWidth 32).toNat < 2 ^ 5 := by
  rw [BitVec.toNat_setWidth]
  have h := t.isLt
  omega

/-- The word of a well-formed instruction has no bit above its format (R90, R95 to R97, R102 to R106). -/
def EncodeFits.Statement (i : Instr) : Prop := i.wf = true → (encode i).toNat < 2 ^ (formatOf i).bits

theorem EncodeFits.rcinit : EncodeFits.Statement .rcinit := fun _ => by decide
theorem EncodeFits.wcinit : EncodeFits.Statement .wcinit := fun _ => by decide
theorem EncodeFits.rdbits : EncodeFits.Statement .rdbits := fun _ => by decide
theorem EncodeFits.wrbits : EncodeFits.Statement .wrbits := fun _ => by decide
theorem EncodeFits.skipb : EncodeFits.Statement .skipb := fun _ => by decide
theorem EncodeFits.flush : EncodeFits.Statement .flush := fun _ => by decide
theorem EncodeFits.rcseek : EncodeFits.Statement .rcseek := fun _ => by decide
theorem EncodeFits.wcpatch : EncodeFits.Statement .wcpatch := fun _ => by decide
theorem EncodeFits.pack7 : EncodeFits.Statement .pack7 := fun _ => by decide
theorem EncodeFits.unpack7 : EncodeFits.Statement .unpack7 := fun _ => by decide
theorem EncodeFits.encaddr : EncodeFits.Statement .encaddr := fun _ => by decide
theorem EncodeFits.decaddr : EncodeFits.Statement .decaddr := fun _ => by decide
theorem EncodeFits.encts : EncodeFits.Statement .encts := fun _ => by decide
theorem EncodeFits.dects : EncodeFits.Statement .dects := fun _ => by decide
theorem EncodeFits.encgsm : EncodeFits.Statement .encgsm := fun _ => by decide
theorem EncodeFits.decgsm : EncodeFits.Statement .decgsm := fun _ => by decide
theorem EncodeFits.enccdma : EncodeFits.Statement .enccdma := fun _ => by decide
theorem EncodeFits.deccdma : EncodeFits.Statement .deccdma := fun _ => by decide
theorem EncodeFits.illegal (op : Byte) : EncodeFits.Statement (.illegal op) := fun _ => octetWord_lt_cmd op
theorem EncodeFits.mtiDeliver : EncodeFits.Statement .mtiDeliver := fun _ => by decide
theorem EncodeFits.mtiSubmit : EncodeFits.Statement .mtiSubmit := fun _ => by decide
theorem EncodeFits.mti10 : EncodeFits.Statement .mti10 := fun _ => by decide
theorem EncodeFits.mti11 : EncodeFits.Statement .mti11 := fun _ => by decide
theorem EncodeFits.vpfNone : EncodeFits.Statement .vpfNone := fun _ => by decide
theorem EncodeFits.vpfRelative : EncodeFits.Statement .vpfRelative := fun _ => by decide
theorem EncodeFits.vpfEnhanced : EncodeFits.Statement .vpfEnhanced := fun _ => by decide
theorem EncodeFits.vpfAbsolute : EncodeFits.Statement .vpfAbsolute := fun _ => by decide
theorem EncodeFits.udhi : EncodeFits.Statement .udhi := fun _ => by decide
theorem EncodeFits.srr : EncodeFits.Statement .srr := fun _ => by decide
theorem EncodeFits.dcsG07bit : EncodeFits.Statement .dcsG07bit := fun _ => by decide
theorem EncodeFits.dcsG08bit : EncodeFits.Statement .dcsG08bit := fun _ => by decide
theorem EncodeFits.dcsG0Ucs2 : EncodeFits.Statement .dcsG0Ucs2 := fun _ => by decide
theorem EncodeFits.dcsG0Reserved : EncodeFits.Statement .dcsG0Reserved := fun _ => by decide
theorem EncodeFits.dcsGF7bit : EncodeFits.Statement .dcsGF7bit := fun _ => by decide
theorem EncodeFits.dcsGF8bit : EncodeFits.Statement .dcsGF8bit := fun _ => by decide
theorem EncodeFits.dcsG01 : EncodeFits.Statement .dcsG01 := fun _ => by decide
theorem EncodeFits.dcsG10 : EncodeFits.Statement .dcsG10 := fun _ => by decide
theorem EncodeFits.dcsG1100 : EncodeFits.Statement .dcsG1100 := fun _ => by decide
theorem EncodeFits.dcsG1101 : EncodeFits.Statement .dcsG1101 := fun _ => by decide
theorem EncodeFits.dcsG1110 : EncodeFits.Statement .dcsG1110 := fun _ => by decide
theorem EncodeFits.toaInternational : EncodeFits.Statement .toaInternational := fun _ => by decide
theorem EncodeFits.fmtPointToPoint : EncodeFits.Statement .fmtPointToPoint := fun _ => by decide
theorem EncodeFits.fmtBroadcast : EncodeFits.Statement .fmtBroadcast := fun _ => by decide
theorem EncodeFits.fmtAcknowledge : EncodeFits.Statement .fmtAcknowledge := fun _ => by decide
theorem EncodeFits.fmtUndefined (value : Byte) : EncodeFits.Statement (.fmtUndefined value) := fun _ => octetWord_lt value
theorem EncodeFits.pTeleservice (len : Byte) : EncodeFits.Statement (.pTeleservice len) := fun _ => headerWord_lt _ _
theorem EncodeFits.pServcat (len : Byte) : EncodeFits.Statement (.pServcat len) := fun _ => headerWord_lt _ _
theorem EncodeFits.pOrigaddr (len : Byte) : EncodeFits.Statement (.pOrigaddr len) := fun _ => headerWord_lt _ _
theorem EncodeFits.pOrigsub (len : Byte) : EncodeFits.Statement (.pOrigsub len) := fun _ => headerWord_lt _ _
theorem EncodeFits.pDestaddr (len : Byte) : EncodeFits.Statement (.pDestaddr len) := fun _ => headerWord_lt _ _
theorem EncodeFits.pDestsub (len : Byte) : EncodeFits.Statement (.pDestsub len) := fun _ => headerWord_lt _ _
theorem EncodeFits.pBearerreply (len : Byte) : EncodeFits.Statement (.pBearerreply len) := fun _ => headerWord_lt _ _
theorem EncodeFits.pCause (len : Byte) : EncodeFits.Statement (.pCause len) := fun _ => headerWord_lt _ _
theorem EncodeFits.pBearerdata (len : Byte) : EncodeFits.Statement (.pBearerdata len) := fun _ => headerWord_lt _ _
theorem EncodeFits.pUnknown (id : Byte) (len : Byte) : EncodeFits.Statement (.pUnknown id len) := fun _ => headerWord_lt _ _
theorem EncodeFits.sMsgid (len : Byte) : EncodeFits.Statement (.sMsgid len) := fun _ => headerWord_lt _ _
theorem EncodeFits.sUserdata (len : Byte) : EncodeFits.Statement (.sUserdata len) := fun _ => headerWord_lt _ _
theorem EncodeFits.sRespcode (len : Byte) : EncodeFits.Statement (.sRespcode len) := fun _ => headerWord_lt _ _
theorem EncodeFits.sMcts (len : Byte) : EncodeFits.Statement (.sMcts len) := fun _ => headerWord_lt _ _
theorem EncodeFits.sVpabs (len : Byte) : EncodeFits.Statement (.sVpabs len) := fun _ => headerWord_lt _ _
theorem EncodeFits.sVprel (len : Byte) : EncodeFits.Statement (.sVprel len) := fun _ => headerWord_lt _ _
theorem EncodeFits.sDdtabs (len : Byte) : EncodeFits.Statement (.sDdtabs len) := fun _ => headerWord_lt _ _
theorem EncodeFits.sDdtrel (len : Byte) : EncodeFits.Statement (.sDdtrel len) := fun _ => headerWord_lt _ _
theorem EncodeFits.sPriority (len : Byte) : EncodeFits.Statement (.sPriority len) := fun _ => headerWord_lt _ _
theorem EncodeFits.sPrivacy (len : Byte) : EncodeFits.Statement (.sPrivacy len) := fun _ => headerWord_lt _ _
theorem EncodeFits.sReplyopt (len : Byte) : EncodeFits.Statement (.sReplyopt len) := fun _ => headerWord_lt _ _
theorem EncodeFits.sMsgcount (len : Byte) : EncodeFits.Statement (.sMsgcount len) := fun _ => headerWord_lt _ _
theorem EncodeFits.sAlert (len : Byte) : EncodeFits.Statement (.sAlert len) := fun _ => headerWord_lt _ _
theorem EncodeFits.sLanguage (len : Byte) : EncodeFits.Statement (.sLanguage len) := fun _ => headerWord_lt _ _
theorem EncodeFits.sCallback (len : Byte) : EncodeFits.Statement (.sCallback len) := fun _ => headerWord_lt _ _
theorem EncodeFits.sDispmode (len : Byte) : EncodeFits.Statement (.sDispmode len) := fun _ => headerWord_lt _ _
theorem EncodeFits.sMultienc (len : Byte) : EncodeFits.Statement (.sMultienc len) := fun _ => headerWord_lt _ _
theorem EncodeFits.sDeposit (len : Byte) : EncodeFits.Statement (.sDeposit len) := fun _ => headerWord_lt _ _
theorem EncodeFits.sScpdata (len : Byte) : EncodeFits.Statement (.sScpdata len) := fun _ => headerWord_lt _ _
theorem EncodeFits.sScpresult (len : Byte) : EncodeFits.Statement (.sScpresult len) := fun _ => headerWord_lt _ _
theorem EncodeFits.sMsgstatus (len : Byte) : EncodeFits.Statement (.sMsgstatus len) := fun _ => headerWord_lt _ _
theorem EncodeFits.sTpfail (len : Byte) : EncodeFits.Statement (.sTpfail len) := fun _ => headerWord_lt _ _
theorem EncodeFits.sEvmn (len : Byte) : EncodeFits.Statement (.sEvmn len) := fun _ => headerWord_lt _ _
theorem EncodeFits.sEvmnack (len : Byte) : EncodeFits.Statement (.sEvmnack len) := fun _ => headerWord_lt _ _
theorem EncodeFits.sUnknown (id : Byte) (len : Byte) : EncodeFits.Statement (.sUnknown id len) := fun _ => headerWord_lt _ _
theorem EncodeFits.udOctet : EncodeFits.Statement .udOctet := fun _ => by decide
theorem EncodeFits.udEpm : EncodeFits.Statement .udEpm := fun _ => by decide
theorem EncodeFits.udAscii7 : EncodeFits.Statement .udAscii7 := fun _ => by decide
theorem EncodeFits.udIa5 : EncodeFits.Statement .udIa5 := fun _ => by decide
theorem EncodeFits.udUnicode : EncodeFits.Statement .udUnicode := fun _ => by decide
theorem EncodeFits.udShiftjis : EncodeFits.Statement .udShiftjis := fun _ => by decide
theorem EncodeFits.udKorean : EncodeFits.Statement .udKorean := fun _ => by decide
theorem EncodeFits.udLatinhebrew : EncodeFits.Statement .udLatinhebrew := fun _ => by decide
theorem EncodeFits.udLatin : EncodeFits.Statement .udLatin := fun _ => by decide
theorem EncodeFits.udGsm7 : EncodeFits.Statement .udGsm7 := fun _ => by decide
theorem EncodeFits.udGsmdcs : EncodeFits.Statement .udGsmdcs := fun _ => by decide
theorem EncodeFits.udUndefined (tag : BitVec 5) : EncodeFits.Statement (.udUndefined tag) := fun _ => tagWord_lt tag
theorem EncodeFits.esc : EncodeFits.Statement .esc := fun _ => by decide
theorem EncodeFits.esc0C : EncodeFits.Statement .esc0C := fun _ => by decide
theorem EncodeFits.esc5E : EncodeFits.Statement .esc5E := fun _ => by decide
theorem EncodeFits.esc7B : EncodeFits.Statement .esc7B := fun _ => by decide
theorem EncodeFits.esc7D : EncodeFits.Statement .esc7D := fun _ => by decide
theorem EncodeFits.esc5C : EncodeFits.Statement .esc5C := fun _ => by decide
theorem EncodeFits.esc5B : EncodeFits.Statement .esc5B := fun _ => by decide
theorem EncodeFits.esc7E : EncodeFits.Statement .esc7E := fun _ => by decide
theorem EncodeFits.esc5D : EncodeFits.Statement .esc5D := fun _ => by decide
theorem EncodeFits.esc7C : EncodeFits.Statement .esc7C := fun _ => by decide

end Sys2Proof.Laws
end

