-- ==== Sys2Proof/Laws/State.lean ====
section
/-! SUPPORT. What each update of the state leaves in each field: one lemma per field per update, true by rfl, so that no
later proof unfolds a record update. For `abandon` and `raise`, the fields no raise touches. -/

namespace Sys2Proof.Machine

/-! ### start -/

@[simp] theorem start_cfg (s : State) : (start s).cfg = s.cfg := rfl
@[simp] theorem start_cmd (s : State) : (start s).cmd = s.cmd := rfl
@[simp] theorem start_status (s : State) : (start s).status = s.status := rfl
@[simp] theorem start_diag (s : State) : (start s).diag = 0 := rfl
@[simp] theorem start_ilen (s : State) : (start s).ilen = s.ilen := rfl
@[simp] theorem start_arg0 (s : State) : (start s).arg0 = s.arg0 := rfl
@[simp] theorem start_arg1 (s : State) : (start s).arg1 = s.arg1 := rfl
@[simp] theorem start_arg2 (s : State) : (start s).arg2 = s.arg2 := rfl
@[simp] theorem start_olen (s : State) : (start s).olen = s.olen := rfl
@[simp] theorem start_res0 (s : State) : (start s).res0 = s.res0 := rfl
@[simp] theorem start_res1 (s : State) : (start s).res1 = s.res1 := rfl
@[simp] theorem start_g7 (s : State) : (start s).g7 = s.g7 := rfl
@[simp] theorem start_ibuf (s : State) : (start s).ibuf = s.ibuf := rfl
@[simp] theorem start_obuf (s : State) : (start s).obuf = s.obuf := rfl
@[simp] theorem start_rc (s : State) : (start s).rc = s.rc := rfl
@[simp] theorem start_wc (s : State) : (start s).wc = s.wc := rfl
@[simp] theorem start_msgG (s : State) : (start s).msgG = s.msgG := rfl
@[simp] theorem start_msgC (s : State) : (start s).msgC = s.msgC := rfl
@[simp] theorem start_work (s : State) : (start s).work = s.work := rfl
@[simp] theorem start_sel (s : State) : (start s).sel = s.sel := rfl
@[simp] theorem start_free (s : State) : (start s).free = s.free := rfl

/-! ### finish -/

@[simp] theorem finish_cfg (k : Kind) (s : State) : (finish k s).cfg = s.cfg := rfl
@[simp] theorem finish_cmd (k : Kind) (s : State) : (finish k s).cmd = s.cmd := rfl
@[simp] theorem finish_status (k : Kind) (s : State) : (finish k s).status = kindCode k := rfl
@[simp] theorem finish_diag (k : Kind) (s : State) : (finish k s).diag = s.diag := rfl
@[simp] theorem finish_ilen (k : Kind) (s : State) : (finish k s).ilen = s.ilen := rfl
@[simp] theorem finish_arg0 (k : Kind) (s : State) : (finish k s).arg0 = s.arg0 := rfl
@[simp] theorem finish_arg1 (k : Kind) (s : State) : (finish k s).arg1 = s.arg1 := rfl
@[simp] theorem finish_arg2 (k : Kind) (s : State) : (finish k s).arg2 = s.arg2 := rfl
@[simp] theorem finish_olen (k : Kind) (s : State) : (finish k s).olen = s.olen := rfl
@[simp] theorem finish_res0 (k : Kind) (s : State) : (finish k s).res0 = s.res0 := rfl
@[simp] theorem finish_res1 (k : Kind) (s : State) : (finish k s).res1 = s.res1 := rfl
@[simp] theorem finish_g7 (k : Kind) (s : State) : (finish k s).g7 = s.g7 := rfl
@[simp] theorem finish_ibuf (k : Kind) (s : State) : (finish k s).ibuf = s.ibuf := rfl
@[simp] theorem finish_obuf (k : Kind) (s : State) : (finish k s).obuf = s.obuf := rfl
@[simp] theorem finish_rc (k : Kind) (s : State) : (finish k s).rc = s.rc := rfl
@[simp] theorem finish_wc (k : Kind) (s : State) : (finish k s).wc = s.wc := rfl
@[simp] theorem finish_msgG (k : Kind) (s : State) : (finish k s).msgG = s.msgG := rfl
@[simp] theorem finish_msgC (k : Kind) (s : State) : (finish k s).msgC = s.msgC := rfl
@[simp] theorem finish_work (k : Kind) (s : State) : (finish k s).work = s.work := rfl
@[simp] theorem finish_sel (k : Kind) (s : State) : (finish k s).sel = s.sel := rfl
@[simp] theorem finish_free (k : Kind) (s : State) : (finish k s).free = s.free := rfl

/-! ### setDiag -/

@[simp] theorem setDiag_cfg (d : Word) (s : State) : (setDiag d s).cfg = s.cfg := rfl
@[simp] theorem setDiag_cmd (d : Word) (s : State) : (setDiag d s).cmd = s.cmd := rfl
@[simp] theorem setDiag_status (d : Word) (s : State) : (setDiag d s).status = s.status := rfl
@[simp] theorem setDiag_diag (d : Word) (s : State) : (setDiag d s).diag = s.diag ||| d := rfl
@[simp] theorem setDiag_ilen (d : Word) (s : State) : (setDiag d s).ilen = s.ilen := rfl
@[simp] theorem setDiag_arg0 (d : Word) (s : State) : (setDiag d s).arg0 = s.arg0 := rfl
@[simp] theorem setDiag_arg1 (d : Word) (s : State) : (setDiag d s).arg1 = s.arg1 := rfl
@[simp] theorem setDiag_arg2 (d : Word) (s : State) : (setDiag d s).arg2 = s.arg2 := rfl
@[simp] theorem setDiag_olen (d : Word) (s : State) : (setDiag d s).olen = s.olen := rfl
@[simp] theorem setDiag_res0 (d : Word) (s : State) : (setDiag d s).res0 = s.res0 := rfl
@[simp] theorem setDiag_res1 (d : Word) (s : State) : (setDiag d s).res1 = s.res1 := rfl
@[simp] theorem setDiag_g7 (d : Word) (s : State) : (setDiag d s).g7 = s.g7 := rfl
@[simp] theorem setDiag_ibuf (d : Word) (s : State) : (setDiag d s).ibuf = s.ibuf := rfl
@[simp] theorem setDiag_obuf (d : Word) (s : State) : (setDiag d s).obuf = s.obuf := rfl
@[simp] theorem setDiag_rc (d : Word) (s : State) : (setDiag d s).rc = s.rc := rfl
@[simp] theorem setDiag_wc (d : Word) (s : State) : (setDiag d s).wc = s.wc := rfl
@[simp] theorem setDiag_msgG (d : Word) (s : State) : (setDiag d s).msgG = s.msgG := rfl
@[simp] theorem setDiag_msgC (d : Word) (s : State) : (setDiag d s).msgC = s.msgC := rfl
@[simp] theorem setDiag_work (d : Word) (s : State) : (setDiag d s).work = s.work := rfl
@[simp] theorem setDiag_sel (d : Word) (s : State) : (setDiag d s).sel = s.sel := rfl
@[simp] theorem setDiag_free (d : Word) (s : State) : (setDiag d s).free = s.free := rfl

/-! ### illegalCommand -/

@[simp] theorem illegalCommand_cfg (s : State) : (illegalCommand s).cfg = s.cfg := rfl
@[simp] theorem illegalCommand_cmd (s : State) : (illegalCommand s).cmd = s.cmd := rfl
@[simp] theorem illegalCommand_status (s : State) : (illegalCommand s).status = 3 := rfl
@[simp] theorem illegalCommand_diag (s : State) : (illegalCommand s).diag = 0 := rfl
@[simp] theorem illegalCommand_ilen (s : State) : (illegalCommand s).ilen = s.ilen := rfl
@[simp] theorem illegalCommand_arg0 (s : State) : (illegalCommand s).arg0 = s.arg0 := rfl
@[simp] theorem illegalCommand_arg1 (s : State) : (illegalCommand s).arg1 = s.arg1 := rfl
@[simp] theorem illegalCommand_arg2 (s : State) : (illegalCommand s).arg2 = s.arg2 := rfl
@[simp] theorem illegalCommand_olen (s : State) : (illegalCommand s).olen = s.olen := rfl
@[simp] theorem illegalCommand_res0 (s : State) : (illegalCommand s).res0 = s.res0 := rfl
@[simp] theorem illegalCommand_res1 (s : State) : (illegalCommand s).res1 = s.res1 := rfl
@[simp] theorem illegalCommand_g7 (s : State) : (illegalCommand s).g7 = s.g7 := rfl
@[simp] theorem illegalCommand_ibuf (s : State) : (illegalCommand s).ibuf = s.ibuf := rfl
@[simp] theorem illegalCommand_obuf (s : State) : (illegalCommand s).obuf = s.obuf := rfl
@[simp] theorem illegalCommand_rc (s : State) : (illegalCommand s).rc = s.rc := rfl
@[simp] theorem illegalCommand_wc (s : State) : (illegalCommand s).wc = s.wc := rfl
@[simp] theorem illegalCommand_msgG (s : State) : (illegalCommand s).msgG = s.msgG := rfl
@[simp] theorem illegalCommand_msgC (s : State) : (illegalCommand s).msgC = s.msgC := rfl
@[simp] theorem illegalCommand_work (s : State) : (illegalCommand s).work = s.work := rfl
@[simp] theorem illegalCommand_sel (s : State) : (illegalCommand s).sel = s.sel := rfl
@[simp] theorem illegalCommand_free (s : State) : (illegalCommand s).free = s.free := rfl

/-! ### putW -/

@[simp] theorem putW_cfg (s : State) (w : WStream) : (s.putW w).cfg = s.cfg := rfl
@[simp] theorem putW_cmd (s : State) (w : WStream) : (s.putW w).cmd = s.cmd := rfl
@[simp] theorem putW_status (s : State) (w : WStream) : (s.putW w).status = s.status := rfl
@[simp] theorem putW_diag (s : State) (w : WStream) : (s.putW w).diag = s.diag := rfl
@[simp] theorem putW_ilen (s : State) (w : WStream) : (s.putW w).ilen = s.ilen := rfl
@[simp] theorem putW_arg0 (s : State) (w : WStream) : (s.putW w).arg0 = s.arg0 := rfl
@[simp] theorem putW_arg1 (s : State) (w : WStream) : (s.putW w).arg1 = s.arg1 := rfl
@[simp] theorem putW_arg2 (s : State) (w : WStream) : (s.putW w).arg2 = s.arg2 := rfl
@[simp] theorem putW_olen (s : State) (w : WStream) : (s.putW w).olen = s.olen := rfl
@[simp] theorem putW_res0 (s : State) (w : WStream) : (s.putW w).res0 = s.res0 := rfl
@[simp] theorem putW_res1 (s : State) (w : WStream) : (s.putW w).res1 = s.res1 := rfl
@[simp] theorem putW_g7 (s : State) (w : WStream) : (s.putW w).g7 = s.g7 := rfl
@[simp] theorem putW_ibuf (s : State) (w : WStream) : (s.putW w).ibuf = s.ibuf := rfl
@[simp] theorem putW_obuf (s : State) (w : WStream) : (s.putW w).obuf = w.buf := rfl
@[simp] theorem putW_rc (s : State) (w : WStream) : (s.putW w).rc = s.rc := rfl
@[simp] theorem putW_wc (s : State) (w : WStream) : (s.putW w).wc = w.wc := rfl
@[simp] theorem putW_msgG (s : State) (w : WStream) : (s.putW w).msgG = s.msgG := rfl
@[simp] theorem putW_msgC (s : State) (w : WStream) : (s.putW w).msgC = s.msgC := rfl
@[simp] theorem putW_work (s : State) (w : WStream) : (s.putW w).work = s.work := rfl
@[simp] theorem putW_sel (s : State) (w : WStream) : (s.putW w).sel = s.sel := rfl
@[simp] theorem putW_free (s : State) (w : WStream) : (s.putW w).free = s.free := rfl

/-! ### putOutput -/

@[simp] theorem putOutput_cfg (cap : Nat) (l : List Byte) (s : State) : (putOutput cap l s).cfg = s.cfg := rfl
@[simp] theorem putOutput_cmd (cap : Nat) (l : List Byte) (s : State) : (putOutput cap l s).cmd = s.cmd := rfl
@[simp] theorem putOutput_status (cap : Nat) (l : List Byte) (s : State) : (putOutput cap l s).status = s.status := rfl
@[simp] theorem putOutput_diag (cap : Nat) (l : List Byte) (s : State) : (putOutput cap l s).diag = s.diag := rfl
@[simp] theorem putOutput_ilen (cap : Nat) (l : List Byte) (s : State) : (putOutput cap l s).ilen = s.ilen := rfl
@[simp] theorem putOutput_arg0 (cap : Nat) (l : List Byte) (s : State) : (putOutput cap l s).arg0 = s.arg0 := rfl
@[simp] theorem putOutput_arg1 (cap : Nat) (l : List Byte) (s : State) : (putOutput cap l s).arg1 = s.arg1 := rfl
@[simp] theorem putOutput_arg2 (cap : Nat) (l : List Byte) (s : State) : (putOutput cap l s).arg2 = s.arg2 := rfl
@[simp] theorem putOutput_olen (cap : Nat) (l : List Byte) (s : State) : (putOutput cap l s).olen = s.olen := rfl
@[simp] theorem putOutput_res0 (cap : Nat) (l : List Byte) (s : State) : (putOutput cap l s).res0 = s.res0 := rfl
@[simp] theorem putOutput_res1 (cap : Nat) (l : List Byte) (s : State) : (putOutput cap l s).res1 = s.res1 := rfl
@[simp] theorem putOutput_g7 (cap : Nat) (l : List Byte) (s : State) : (putOutput cap l s).g7 = s.g7 := rfl
@[simp] theorem putOutput_ibuf (cap : Nat) (l : List Byte) (s : State) : (putOutput cap l s).ibuf = s.ibuf := rfl
@[simp] theorem putOutput_obuf (cap : Nat) (l : List Byte) (s : State) : (putOutput cap l s).obuf = memSetPrefix s.obuf (fillTo (Config.freeObuf s.free) (min cap s.cfg.obufCap) l) := rfl
@[simp] theorem putOutput_rc (cap : Nat) (l : List Byte) (s : State) : (putOutput cap l s).rc = s.rc := rfl
@[simp] theorem putOutput_wc (cap : Nat) (l : List Byte) (s : State) : (putOutput cap l s).wc = s.wc := rfl
@[simp] theorem putOutput_msgG (cap : Nat) (l : List Byte) (s : State) : (putOutput cap l s).msgG = s.msgG := rfl
@[simp] theorem putOutput_msgC (cap : Nat) (l : List Byte) (s : State) : (putOutput cap l s).msgC = s.msgC := rfl
@[simp] theorem putOutput_work (cap : Nat) (l : List Byte) (s : State) : (putOutput cap l s).work = s.work := rfl
@[simp] theorem putOutput_sel (cap : Nat) (l : List Byte) (s : State) : (putOutput cap l s).sel = s.sel := rfl
@[simp] theorem putOutput_free (cap : Nat) (l : List Byte) (s : State) : (putOutput cap l s).free = s.free + 1 := rfl

/-! ### putDecode -/

@[simp] theorem putDecode_cfg (s : State) (x : DecodeCtx) : (s.putDecode x).cfg = s.cfg := rfl
@[simp] theorem putDecode_cmd (s : State) (x : DecodeCtx) : (s.putDecode x).cmd = s.cmd := rfl
@[simp] theorem putDecode_status (s : State) (x : DecodeCtx) : (s.putDecode x).status = s.status := rfl
@[simp] theorem putDecode_diag (s : State) (x : DecodeCtx) : (s.putDecode x).diag = x.diag := rfl
@[simp] theorem putDecode_ilen (s : State) (x : DecodeCtx) : (s.putDecode x).ilen = s.ilen := rfl
@[simp] theorem putDecode_arg0 (s : State) (x : DecodeCtx) : (s.putDecode x).arg0 = s.arg0 := rfl
@[simp] theorem putDecode_arg1 (s : State) (x : DecodeCtx) : (s.putDecode x).arg1 = s.arg1 := rfl
@[simp] theorem putDecode_arg2 (s : State) (x : DecodeCtx) : (s.putDecode x).arg2 = s.arg2 := rfl
@[simp] theorem putDecode_olen (s : State) (x : DecodeCtx) : (s.putDecode x).olen = s.olen := rfl
@[simp] theorem putDecode_res0 (s : State) (x : DecodeCtx) : (s.putDecode x).res0 = s.res0 := rfl
@[simp] theorem putDecode_res1 (s : State) (x : DecodeCtx) : (s.putDecode x).res1 = s.res1 := rfl
@[simp] theorem putDecode_g7 (s : State) (x : DecodeCtx) : (s.putDecode x).g7 = s.g7 := rfl
@[simp] theorem putDecode_ibuf (s : State) (x : DecodeCtx) : (s.putDecode x).ibuf = s.ibuf := rfl
@[simp] theorem putDecode_obuf (s : State) (x : DecodeCtx) : (s.putDecode x).obuf = s.obuf := rfl
@[simp] theorem putDecode_rc (s : State) (x : DecodeCtx) : (s.putDecode x).rc = x.rc := rfl
@[simp] theorem putDecode_wc (s : State) (x : DecodeCtx) : (s.putDecode x).wc = s.wc := rfl
@[simp] theorem putDecode_msgG (s : State) (x : DecodeCtx) : (s.putDecode x).msgG = s.msgG := rfl
@[simp] theorem putDecode_msgC (s : State) (x : DecodeCtx) : (s.putDecode x).msgC = s.msgC := rfl
@[simp] theorem putDecode_work (s : State) (x : DecodeCtx) : (s.putDecode x).work = { s.work with m := x.m, b := x.b, bEnd := x.bEnd } := rfl
@[simp] theorem putDecode_sel (s : State) (x : DecodeCtx) : (s.putDecode x).sel = s.sel := rfl
@[simp] theorem putDecode_free (s : State) (x : DecodeCtx) : (s.putDecode x).free = s.free := rfl

/-! ### abandon and raise -/

@[simp] theorem abandon_cfg (op : Running) (s : State) : (abandon op s).cfg = s.cfg := by
  cases op <;> rfl
@[simp] theorem abandon_cmd (op : Running) (s : State) : (abandon op s).cmd = s.cmd := by
  cases op <;> rfl
@[simp] theorem abandon_status (op : Running) (s : State) : (abandon op s).status = s.status := by
  cases op <;> rfl
@[simp] theorem abandon_diag (op : Running) (s : State) : (abandon op s).diag = s.diag := by
  cases op <;> rfl
@[simp] theorem abandon_ilen (op : Running) (s : State) : (abandon op s).ilen = s.ilen := by
  cases op <;> rfl
@[simp] theorem abandon_arg0 (op : Running) (s : State) : (abandon op s).arg0 = s.arg0 := by
  cases op <;> rfl
@[simp] theorem abandon_arg1 (op : Running) (s : State) : (abandon op s).arg1 = s.arg1 := by
  cases op <;> rfl
@[simp] theorem abandon_arg2 (op : Running) (s : State) : (abandon op s).arg2 = s.arg2 := by
  cases op <;> rfl
@[simp] theorem abandon_g7 (op : Running) (s : State) : (abandon op s).g7 = s.g7 := by
  cases op <;> rfl
@[simp] theorem abandon_ibuf (op : Running) (s : State) : (abandon op s).ibuf = s.ibuf := by
  cases op <;> rfl
@[simp] theorem abandon_work (op : Running) (s : State) : (abandon op s).work = s.work := by
  cases op <;> rfl
@[simp] theorem abandon_sel (op : Running) (s : State) : (abandon op s).sel = s.sel := by
  cases op <;> rfl
@[simp] theorem raise_cfg (op : Running) (k : Kind) (s : State) :
    (raise op k s).cfg = s.cfg := by simp [raise]
@[simp] theorem raise_cmd (op : Running) (k : Kind) (s : State) :
    (raise op k s).cmd = s.cmd := by simp [raise]
@[simp] theorem raise_diag (op : Running) (k : Kind) (s : State) :
    (raise op k s).diag = s.diag := by simp [raise]
@[simp] theorem raise_ilen (op : Running) (k : Kind) (s : State) :
    (raise op k s).ilen = s.ilen := by simp [raise]
@[simp] theorem raise_arg0 (op : Running) (k : Kind) (s : State) :
    (raise op k s).arg0 = s.arg0 := by simp [raise]
@[simp] theorem raise_arg1 (op : Running) (k : Kind) (s : State) :
    (raise op k s).arg1 = s.arg1 := by simp [raise]
@[simp] theorem raise_arg2 (op : Running) (k : Kind) (s : State) :
    (raise op k s).arg2 = s.arg2 := by simp [raise]
@[simp] theorem raise_g7 (op : Running) (k : Kind) (s : State) :
    (raise op k s).g7 = s.g7 := by simp [raise]
@[simp] theorem raise_ibuf (op : Running) (k : Kind) (s : State) :
    (raise op k s).ibuf = s.ibuf := by simp [raise]
@[simp] theorem raise_work (op : Running) (k : Kind) (s : State) :
    (raise op k s).work = s.work := by simp [raise]
@[simp] theorem raise_sel (op : Running) (k : Kind) (s : State) :
    (raise op k s).sel = s.sel := by simp [raise]
@[simp] theorem raise_status (op : Running) (k : Kind) (s : State) :
    (raise op k s).status = kindCode k := rfl

@[simp] theorem abandon_rc (op : Running) (s : State) :
    (abandon op s).rc = if op = .deccdma then { s.rc with isOpen := false } else s.rc := by
  cases op <;> rfl

@[simp] theorem abandon_wc (op : Running) (s : State) :
    (abandon op s).wc = if op = .enccdma then { s.wc with isOpen := false } else s.wc := by
  cases op <;> rfl

@[simp] theorem raise_rc (op : Running) (k : Kind) (s : State) :
    (raise op k s).rc = if op = .deccdma then { s.rc with isOpen := false } else s.rc := by simp [raise]

@[simp] theorem raise_wc (op : Running) (k : Kind) (s : State) :
    (raise op k s).wc = if op = .enccdma then { s.wc with isOpen := false } else s.wc := by simp [raise]

@[simp] theorem raise_idle (k : Kind) (s : State) : raise .idle k s = finish k s := rfl

/-- The status codes are the four of R353. -/
theorem kindCode_lt (k : Kind) : (kindCode k).toNat < 4 := by cases k <;> decide

@[simp] theorem openR_isOpen (n : Nat) : (openR n).isOpen = true := rfl
@[simp] theorem openR_cap (n : Nat) : (openR n).cap = n := rfl
@[simp] theorem openR_pos (n : Nat) : (openR n).pos = 8 := rfl

end Sys2Proof.Machine
end

