-- ==== Sys2Proof/Laws/Results.lean ====
section
/-! SUPPORT. What raising, finishing and putting an output can do, each said once, and that they keep the state
invariant. -/

namespace Sys2Proof.Machine

@[simp] theorem start_start (s : State) : start (start s) = start s := rfl

theorem outputCap_start (op : Running) (s : State) : outputCap op (start s) = outputCap op s := by cases op <;> rfl

/-- What `abandon` can do to OBUF: octets at the operation's capacity and above keep their value (log 8). -/
theorem memRead_abandon (op : Running) (s : State) (a : Nat) (h : outputCap op s ≤ a) :
    memRead (abandon op s).obuf a = memRead s.obuf a := by
  cases op <;> first
    | rfl
    | (simp only [abandon]; rw [memRead_memSetPrefix, fillTo_length, if_neg (by omega)])

/-- What `raise` can do, said once (R352). -/
theorem raise_raised (op : Running) (k : Kind) (s : State) : Raised op k s (raise op k s) := by
  refine ⟨rfl, by simp, by simp, by simp, by simp, by simp, by simp, by simp, by simp, by simp, by simp,
    fun a h => memRead_abandon op s a h, ?_, ?_, ?_, ?_, ?_, by simp, by simp⟩
  all_goals (cases op <;> intro h <;> first | rfl | (exact absurd rfl h) | (exact Bool.noConfusion h))

theorem raise_starts (op : Running) (k : Kind) (s : State) : (raise op k (start s)).diag = 0 := by simp

/-! ### The output -/

/-- What `putOutput` can do to OBUF, said once: it begins with the output, and octets at the capacity and above keep
their value (R24, R61). -/
theorem memRead_putOutput (cap : Nat) (l : List Byte) (s : State) :
    (l.length ≤ min cap s.cfg.obufCap → OutputIs l (putOutput cap l s)) ∧ OutputKeptFrom cap s (putOutput cap l s) := by
  refine ⟨fun h k hk => ?_, fun a ha => ?_⟩
  · rw [putOutput_obuf, memRead_memSetPrefix, fillTo_length, if_pos (by omega), fillTo_getD _ _ _ _ _ hk h]
  · rw [putOutput_obuf, memRead_memSetPrefix, fillTo_length, if_neg (by omega)]

/-! ### The invariant -/

theorem inv_start {s : State} (h : s.Inv) : (start s).Inv :=
  { h with diagBits := by simp }

theorem inv_finish {s : State} (k : Kind) (h : s.Inv) : (finish k s).Inv :=
  { h with statusKind := kindCode_lt k }

theorem inv_putOutput {s : State} (cap : Nat) (l : List Byte) (h : s.Inv) : (putOutput cap l s).Inv :=
  { h with
    obufForm := wf_memSetPrefix _ _ h.obufForm
    obufBound := memBelow_memSetPrefix _ _ _ (by simp) h.obufBound }

theorem fitMsgG_lengths (c : Config) (m : GsmMsg) : (fitMsgG c m).addr.length = c.addrStrCap ∧
    (fitMsgG c m).ts.length = c.tsStrCap ∧ (fitMsgG c m).data.length = c.gsmDataCap := by
  simp [fitMsgG]

theorem inv_abandon {s : State} (op : Running) (h : s.Inv) : (abandon op s).Inv := by
  have hf : ∀ n, Memory.wf (memSetPrefix s.obuf (fillTo (Config.freeObuf s.free) (min n s.cfg.obufCap) [])) = true :=
    fun n => wf_memSetPrefix _ _ h.obufForm
  have hb : ∀ n, memBelow s.cfg.obufCap
      (memSetPrefix s.obuf (fillTo (Config.freeObuf s.free) (min n s.cfg.obufCap) [])) = true :=
    fun n => memBelow_memSetPrefix _ _ _ (by simp) h.obufBound
  have hg := fitMsgG_lengths s.cfg (Config.freeMsgG s.free)
  cases op
  case idle => exact h
  case decgsm =>
    exact { h with obufForm := hf _, obufBound := hb _, addrArray := hg.1, tsArray := hg.2.1, dataArray := hg.2.2 }
  all_goals
    exact ⟨h.params, h.ibufForm, h.ibufBound, hf _, hb _, h.rcCap, h.rcPos, h.wcCap, h.wcPos, h.statusKind,
      h.diagBits, h.addrArray, h.tsArray, h.dataArray⟩

theorem inv_raise {s : State} (op : Running) (k : Kind) (h : s.Inv) : (raise op k s).Inv :=
  inv_finish k (inv_abandon op h)

end Sys2Proof.Machine
end

