-- ==== Sys2Proof/Tests/Slice0.lean ====
section
/-! SUPPORT. Tests: ill-formed terms refused, words written out from the spec's tables, one step of each instruction
with its result taken from 95_test_vectors.md or worked out by hand from the rules, and a state that meets the
hypotheses of each statement. -/

namespace Sys2Proof.Tests

open Machine Wire

set_option Elab.async false

/-! ### Well-formedness: each check refuses an ill-formed term -/

theorem test_wf_illegal : (Instr.illegal 0x41).wf = false ∧ (Instr.illegal 0x42).wf = true := by decide
theorem test_wf_fmtUndefined : (Instr.fmtUndefined 2).wf = false ∧ (Instr.fmtUndefined 3).wf = true := by decide
theorem test_wf_pUnknown : (Instr.pUnknown 8 0).wf = false ∧ (Instr.pUnknown 9 0).wf = true := by decide
theorem test_wf_sUnknown : (Instr.sUnknown 23 0).wf = false ∧ (Instr.sUnknown 24 0).wf = true := by decide
theorem test_wf_udUndefined : (Instr.udUndefined 10).wf = false ∧ (Instr.udUndefined 11).wf = true := by decide

/-- The default parameters with a fixed sentinel, "unk". -/
def cfg : Config := { defaultConfig with tsUnknown := [0x75, 0x6E, 0x6B] }

/-- Every field that Config.wf bounds, put one past its bound. -/
def badConfigs : List Config :=
  [{ cfg with pduCap := 163 }, { cfg with obufCap := 175 }, { cfg with cdmaPduCap := 0 },
   { cfg with cdmaPduCap := 257 }, { cfg with gsmDataCap := 159 }, { cfg with udOctetsMax := 161 },
   { cfg with gsmDataCap := 256 }, { cfg with addrDigitsMax := 256 }, { cfg with addrStrCap := 0 },
   { cfg with addrStrCap := 257 }, { cfg with addrStrCap := 200, obufCap := 199, pduCap := 176, cdmaPduCap := 1 },
   { cfg with tsStrCap := 20 }, { cfg with tsStrCap := 257, obufCap := 300 },
   { cfg with tsStrCap := 200, obufCap := 199, cdmaPduCap := 1 },
   { cfg with tsUnknown := List.replicate 21 0x75 }, { cfg with a8to7 := [] }, { cfg with a7to8 := [] }]

theorem test_wf_config : cfg.wf = true ∧ ∀ c ∈ badConfigs, c.wf = false := by decide +kernel

/-! ### Decoding: words written out from the tables -/

/-- R90, R92: CMD[7:0]. -/
theorem test_decode_operations :
    decodeAt .cmd 0x00000001 = .ok .rcinit ∧
    decodeAt .cmd 0x00000002 = .ok .wcinit ∧
    decodeAt .cmd 0x00000003 = .ok .rdbits ∧
    decodeAt .cmd 0x00000004 = .ok .wrbits ∧
    decodeAt .cmd 0x00000005 = .ok .skipb ∧
    decodeAt .cmd 0x00000006 = .ok .flush ∧
    decodeAt .cmd 0x00000007 = .ok .rcseek ∧
    decodeAt .cmd 0x00000008 = .ok .wcpatch ∧
    decodeAt .cmd 0x00000010 = .ok .pack7 ∧
    decodeAt .cmd 0x00000011 = .ok .unpack7 ∧
    decodeAt .cmd 0x00000020 = .ok .encaddr ∧
    decodeAt .cmd 0x00000021 = .ok .decaddr ∧
    decodeAt .cmd 0x00000022 = .ok .encts ∧
    decodeAt .cmd 0x00000023 = .ok .dects ∧
    decodeAt .cmd 0x00000030 = .ok .encgsm ∧
    decodeAt .cmd 0x00000031 = .ok .decgsm ∧
    decodeAt .cmd 0x00000040 = .ok .enccdma ∧
    decodeAt .cmd 0x00000041 = .ok .deccdma ∧
    decodeAt .cmd 0x000000FF = .ok (.illegal 0xFF) := by decide +kernel

/-- R96: fo[1:0], the other bits not examined. -/
theorem test_decode_firstOctet :
    decodeAt .foMti 0x24 = .ok .mtiDeliver ∧
    decodeAt .foMti 0x31 = .ok .mtiSubmit ∧
    decodeAt .foMti 0x06 = .ok .mti10 ∧
    decodeAt .foMti 0x03 = .ok .mti11 := by decide +kernel

/-- R205: fo[4:3] is 00, 10, 01, 11. -/
theorem test_decode_validity :
    decodeAt .foVpf 0x01 = .ok .vpfNone ∧
    decodeAt .foVpf 0x11 = .ok .vpfRelative ∧
    decodeAt .foVpf 0x09 = .ok .vpfEnhanced ∧
    decodeAt .foVpf 0x19 = .ok .vpfAbsolute := by decide +kernel

/-- R206, R208, R182, R166: one bit, or one value, each; any other word of the place is no row. -/
theorem test_decode_single :
    decodeAt .foUdhi 0x41 = .ok .udhi ∧ decodeAt .foUdhi 0xBF = .error .noRow ∧
    decodeAt .foSrr 0x31 = .ok .srr ∧ decodeAt .foSrr 0xDF = .error .noRow ∧
    decodeAt .gsmToa 0x91 = .ok .toaInternational ∧ decodeAt .gsmToa 0x81 = .error .noRow ∧
    decodeAt .gsmToa 0xA1 = .error .noRow ∧
    decodeAt .septet 27 = .ok .esc ∧ decodeAt .septet 26 = .error .noRow := by decide +kernel

/-- R97: the group in bits 7 to 4, the alphabet in bits 3 and 2, the other bits not examined. -/
theorem test_decode_coding :
    decodeAt .gsmDcs 0x33 = .ok .dcsG07bit ∧
    decodeAt .gsmDcs 0x17 = .ok .dcsG08bit ∧
    decodeAt .gsmDcs 0x2B = .ok .dcsG0Ucs2 ∧
    decodeAt .gsmDcs 0x0F = .ok .dcsG0Reserved ∧
    decodeAt .gsmDcs 0xFB = .ok .dcsGF7bit ∧
    decodeAt .gsmDcs 0xF4 = .ok .dcsGF8bit ∧
    decodeAt .gsmDcs 0x7C = .ok .dcsG01 ∧
    decodeAt .gsmDcs 0xBF = .ok .dcsG10 ∧
    decodeAt .gsmDcs 0xC4 = .ok .dcsG1100 ∧
    decodeAt .gsmDcs 0xDF = .ok .dcsG1101 ∧
    decodeAt .gsmDcs 0xE8 = .ok .dcsG1110 := by decide +kernel

/-- R105. -/
theorem test_decode_messageFormat :
    decodeAt .cdmaFormat 0x00 = .ok .fmtPointToPoint ∧
    decodeAt .cdmaFormat 0x01 = .ok .fmtBroadcast ∧
    decodeAt .cdmaFormat 0x02 = .ok .fmtAcknowledge ∧
    decodeAt .cdmaFormat 0x03 = .ok (.fmtUndefined 0x03) ∧
    decodeAt .cdmaFormat 0xFF = .ok (.fmtUndefined 0xFF) := by decide +kernel

/-- R102, R103: the identifier octet first, then the length. -/
theorem test_decode_parameters :
    decodeAt .cdmaParam 0x00A0 = .ok (.pTeleservice 0xA0) ∧
    decodeAt .cdmaParam 0x01A1 = .ok (.pServcat 0xA1) ∧
    decodeAt .cdmaParam 0x02A2 = .ok (.pOrigaddr 0xA2) ∧
    decodeAt .cdmaParam 0x03A3 = .ok (.pOrigsub 0xA3) ∧
    decodeAt .cdmaParam 0x04A4 = .ok (.pDestaddr 0xA4) ∧
    decodeAt .cdmaParam 0x05A5 = .ok (.pDestsub 0xA5) ∧
    decodeAt .cdmaParam 0x06A6 = .ok (.pBearerreply 0xA6) ∧
    decodeAt .cdmaParam 0x07A7 = .ok (.pCause 0xA7) ∧
    decodeAt .cdmaParam 0x08A8 = .ok (.pBearerdata 0xA8) ∧
    decodeAt .cdmaParam 0x0901 = .ok (.pUnknown 0x09 0x01) ∧
    decodeAt .cdmaParam 0xFF80 = .ok (.pUnknown 0xFF 0x80) := by decide +kernel

/-- R102, R104. -/
theorem test_decode_subparameters :
    decodeAt .cdmaSubparam 0x00C0 = .ok (.sMsgid 0xC0) ∧
    decodeAt .cdmaSubparam 0x01C1 = .ok (.sUserdata 0xC1) ∧
    decodeAt .cdmaSubparam 0x02C2 = .ok (.sRespcode 0xC2) ∧
    decodeAt .cdmaSubparam 0x03C3 = .ok (.sMcts 0xC3) ∧
    decodeAt .cdmaSubparam 0x04C4 = .ok (.sVpabs 0xC4) ∧
    decodeAt .cdmaSubparam 0x05C5 = .ok (.sVprel 0xC5) ∧
    decodeAt .cdmaSubparam 0x06C6 = .ok (.sDdtabs 0xC6) ∧
    decodeAt .cdmaSubparam 0x07C7 = .ok (.sDdtrel 0xC7) ∧
    decodeAt .cdmaSubparam 0x08C8 = .ok (.sPriority 0xC8) ∧
    decodeAt .cdmaSubparam 0x09C9 = .ok (.sPrivacy 0xC9) ∧
    decodeAt .cdmaSubparam 0x0ACA = .ok (.sReplyopt 0xCA) ∧
    decodeAt .cdmaSubparam 0x0BCB = .ok (.sMsgcount 0xCB) ∧
    decodeAt .cdmaSubparam 0x0CCC = .ok (.sAlert 0xCC) ∧
    decodeAt .cdmaSubparam 0x0DCD = .ok (.sLanguage 0xCD) ∧
    decodeAt .cdmaSubparam 0x0ECE = .ok (.sCallback 0xCE) ∧
    decodeAt .cdmaSubparam 0x0FCF = .ok (.sDispmode 0xCF) ∧
    decodeAt .cdmaSubparam 0x10D0 = .ok (.sMultienc 0xD0) ∧
    decodeAt .cdmaSubparam 0x11D1 = .ok (.sDeposit 0xD1) ∧
    decodeAt .cdmaSubparam 0x12D2 = .ok (.sScpdata 0xD2) ∧
    decodeAt .cdmaSubparam 0x13D3 = .ok (.sScpresult 0xD3) ∧
    decodeAt .cdmaSubparam 0x14D4 = .ok (.sMsgstatus 0xD4) ∧
    decodeAt .cdmaSubparam 0x15D5 = .ok (.sTpfail 0xD5) ∧
    decodeAt .cdmaSubparam 0x16D6 = .ok (.sEvmn 0xD6) ∧
    decodeAt .cdmaSubparam 0x17D7 = .ok (.sEvmnack 0xD7) ∧
    decodeAt .cdmaSubparam 0x1801 = .ok (.sUnknown 0x18 0x01) ∧
    decodeAt .cdmaSubparam 0xFF80 = .ok (.sUnknown 0xFF 0x80) := by decide +kernel

/-- R106. -/
theorem test_decode_encodingTags :
    decodeAt .udEncoding 0 = .ok .udOctet ∧
    decodeAt .udEncoding 1 = .ok .udEpm ∧
    decodeAt .udEncoding 2 = .ok .udAscii7 ∧
    decodeAt .udEncoding 3 = .ok .udIa5 ∧
    decodeAt .udEncoding 4 = .ok .udUnicode ∧
    decodeAt .udEncoding 5 = .ok .udShiftjis ∧
    decodeAt .udEncoding 6 = .ok .udKorean ∧
    decodeAt .udEncoding 7 = .ok .udLatinhebrew ∧
    decodeAt .udEncoding 8 = .ok .udLatin ∧
    decodeAt .udEncoding 9 = .ok .udGsm7 ∧
    decodeAt .udEncoding 10 = .ok .udGsmdcs ∧
    decodeAt .udEncoding 11 = .ok (.udUndefined 11) ∧
    decodeAt .udEncoding 31 = .ok (.udUndefined 31) := by decide +kernel

/-- R164. -/
theorem test_decode_extensions :
    decodeAt .septetAfterEsc 10 = .ok .esc0C ∧
    decodeAt .septetAfterEsc 20 = .ok .esc5E ∧
    decodeAt .septetAfterEsc 40 = .ok .esc7B ∧
    decodeAt .septetAfterEsc 41 = .ok .esc7D ∧
    decodeAt .septetAfterEsc 47 = .ok .esc5C ∧
    decodeAt .septetAfterEsc 60 = .ok .esc5B ∧
    decodeAt .septetAfterEsc 61 = .ok .esc7E ∧
    decodeAt .septetAfterEsc 62 = .ok .esc5D ∧
    decodeAt .septetAfterEsc 64 = .ok .esc7C := by decide +kernel

/-- R22, R92: a command word with a bit of its reserved field set; a word wider than its place; a plain septet. -/
theorem test_decode_refuses :
    decodeAt .cmd 0x00000103 = .error .reservedBits ∧ decodeAt .cmd 0x80000031 = .error .reservedBits ∧
    decodeAt .gsmDcs 0x100 = .error .reservedBits ∧ decodeAt .udEncoding 32 = .error .reservedBits ∧
    decodeAt .septetAfterEsc 65 = .error .noRow := by decide +kernel

/-- The table's numbering: CMD[7:0] in the lowest octet; a header's identifier above its length (R102). -/
theorem test_decodeTableWord :
    decodeTableWord 32 0x40 = some .enccdma ∧ decodeTableWord 16 0x0407 = some (.pDestaddr 0x07) ∧
    decodeTableWord 16 0x0E03 = some (.sCallback 0x03) ∧ decodeTableWord 8 0xF4 = some .dcsGF8bit ∧
    decodeTableWord 8 0x100 = none := by decide +kernel

/-! ### Steps -/

/-- A machine after reset with `l` in IBUF and its length in ILEN. -/
def st (l : List Byte) : State :=
  { State.reset with cfg := cfg, ibuf := memOctets 0 l, ilen := BitVec.ofNat 32 l.length }

/-- The state after an instruction. -/
def run (i : Instr) (s : State) : State := nextOr (exec i s) s

/-- The first `n` octets of OBUF. -/
def outs (n : Nat) (s : State) : List Byte := memSlice s.obuf 0 n

/-- WC open over `cap` octets at bit `pos`, the operands of a write in ARG0 and ARG1. -/
def wst (l : List Byte) (cap pos : Nat) (n v : Word) : State :=
  { st [] with obuf := memOctets 0 l, wc := { isOpen := true, cap := cap, pos := pos }, arg0 := n, arg1 := v }

/-- RC open over the octets at bit `pos`, the operand of a read in ARG0. -/
def rst (l : List Byte) (pos : Nat) (n : Word) : State :=
  { st l with rc := { isOpen := true, cap := l.length, pos := pos }, arg0 := n }

-- V1
theorem test_rcinit : (run .rcinit (st [1, 2, 3])).rc = { isOpen := true, cap := 3, pos := 0 } := by decide +kernel
theorem test_rcinit_fault : (run .rcinit { st [] with ilen := 257 }).status = 3 ∧
    (run .rcinit { st [] with ilen := 257 }).rc.isOpen = false := by decide +kernel
theorem test_wcinit : outs 5 (run .wcinit (wst [9, 9, 9, 9, 7] 1 3 4 0)) = [0, 0, 0, 0, 7] := by decide +kernel
theorem test_wcinit_fault : (run .wcinit { st [] with arg0 := 257 }).status = 3 := by decide +kernel
theorem test_rdbits : (run .rdbits (rst [0xAB, 0xCD, 0xEF, 0x01, 0x23] 4 32)).res0 = 0xBCDEF012 ∧
    (run .rdbits (rst [0xAB, 0xCD, 0xEF, 0x01, 0x23] 4 32)).rc.pos = 36 := by decide +kernel
theorem test_rdbits_overflow : (run .rdbits { rst [0xAB] 4 5 with res0 := 9 }).status = 2 ∧
    (run .rdbits { rst [0xAB] 4 5 with res0 := 9 }).res0 = 0 ∧
    (run .rdbits { rst [0xAB] 4 5 with res0 := 9 }).rc.pos = 4 := by decide +kernel
theorem test_wrbits : outs 4 (run .wrbits (wst [0x10, 0x02, 0, 0] 4 16 3 5)) = [0x10, 0x02, 0xA0, 0x00] := by
  decide +kernel
theorem test_wrbits_overflow : (run .wrbits (wst [0xFF, 0] 2 8 9 0x1FF)).wc =
    { isOpen := true, cap := 2, pos := 8, ovf := true } ∧
    outs 2 (run .wrbits (wst [0xFF, 0] 2 8 9 0x1FF)) = [0xFF, 0] := by decide +kernel
theorem test_skipb : (run .skipb (rst [2, 0xCC, 0xD9] 18 0)).rc.pos = 24 := by decide +kernel
theorem test_flush : (run .flush (wst [0x10, 0x02, 0xA0] 4 19 0 0)).wc.pos = 24 ∧
    (run .flush (wst [0x10, 0x02, 0xA0] 4 19 0 0)).olen = 3 := by decide +kernel
theorem test_flush_pads : outs 3 (run .flush (wst [0x10, 0x02, 0xBF] 4 19 0 0)) = [0x10, 0x02, 0xA0] := by
  decide +kernel
theorem test_rcseek : (run .rcseek (rst (List.replicate 16 1) 61 13)).rc.pos = 104 ∧
    (run .rcseek (rst (List.replicate 16 1) 61 40)).rc.pos = 128 := by decide +kernel
theorem test_wcpatch : outs 4 (run .wcpatch (wst [4, 0, 2, 0xCC] 4 32 1 2)) = [4, 2, 2, 0xCC] := by decide +kernel
theorem test_wcpatch_fault : (run .wcpatch (wst [4, 0] 4 12 1 7)).status = 3 ∧
    outs 2 (run .wcpatch (wst [4, 0] 4 12 1 7)) = [4, 0] := by decide +kernel

-- V2

theorem test_pack7 : outs 4 (run .pack7 { st [0x61, 0x7B, 0x62] with arg1 := 140 }) = [0xE1, 0x0D, 0x4A, 0x0C] ∧
    (run .pack7 { st [0x61, 0x7B, 0x62] with arg1 := 140 }).res0 = 4 := by decide +kernel
theorem test_pack7_overflow : (run .pack7 { st [0x61, 0x62] with arg1 := 1 }).status = 2 := by decide +kernel
theorem test_unpack7 : outs 3 (run .unpack7 { st [0xE1, 0x0D, 0x4A, 0x0C] with arg0 := 4, arg1 := 160 }) = [0x61, 0x7B, 0x62] ∧
    (run .unpack7 { st [0xE1, 0x0D, 0x4A, 0x0C] with arg0 := 4, arg1 := 160 }).olen = 3 := by decide +kernel
theorem test_unpack7_lone_escape : outs 1 (run .unpack7 { st [0x1B] with arg0 := 1, arg1 := 160 }) = [0x3F] := by
  decide +kernel

-- V3, V4
theorem test_encaddr : outs 6 (run .encaddr (st [0x2B, 0x33, 0x33, 0x36, 0x34, 0x33, 0x35, 0x33, 0x37, 0x39, 0x31, 0x39])) = [0x33, 0x46, 0x53, 0x73, 0x19, 0xF9] ∧
    (run .encaddr (st [0x2B, 0x33, 0x33, 0x36, 0x34, 0x33, 0x35, 0x33, 0x37, 0x39, 0x31, 0x39])).res0 = 11 ∧ (run .encaddr (st [0x2B, 0x33, 0x33, 0x36, 0x34, 0x33, 0x35, 0x33, 0x37, 0x39, 0x31, 0x39])).res1 = 0x91 := by decide +kernel
theorem test_encaddr_fault : (run .encaddr (st [0x31, 0x32, 0x61, 0x34])).status = 3 := by decide +kernel
theorem test_decaddr : outs 4 (run .decaddr { st [0x21, 0xF3] with arg0 := 3, arg1 := 0x11 }) = [0x2B, 0x31, 0x32, 0x33] ∧
    (run .decaddr { st [0x21, 0xF3] with arg0 := 3, arg1 := 0x11 }).olen = 4 := by decide +kernel
theorem test_decaddr_unsupported : (run .decaddr { st [0x1A] with arg0 := 2, arg1 := 0x81 }).status = 1 := by
  decide +kernel
theorem test_encts : outs 7 (run .encts (st [0x39, 0x39, 0x2F, 0x31, 0x32, 0x2F, 0x33, 0x31, 0x2C, 0x32, 0x33, 0x3A, 0x35, 0x39, 0x3A, 0x35, 0x39, 0x2D, 0x32, 0x38])) = [0x99, 0x21, 0x13, 0x32, 0x95, 0x95, 0x8A] := by
  decide +kernel
theorem test_encts_fault : (run .encts (st [0x31, 0x34, 0x2F, 0x30, 0x37, 0x2F, 0x33, 0x31, 0x2C, 0x32, 0x30, 0x3A, 0x35, 0x35, 0x3A, 0x31, 0x37, 0x2B, 0x38, 0x30])).status = 3 := by decide +kernel
theorem test_dects : outs 20 (run .dects (st [0x41, 0x70, 0x13, 0x02, 0x55, 0x71, 0x8A])) =
    [0x31, 0x34, 0x2F, 0x30, 0x37, 0x2F, 0x33, 0x31, 0x2C, 0x32, 0x30, 0x3A, 0x35, 0x35, 0x3A, 0x31, 0x37, 0x2D, 0x32, 0x38] := by decide +kernel
theorem test_dects_unknown : outs 3 (run .dects (st [0x4A, 0x70, 0x13, 0x02, 0x55, 0x71, 0x80])) = [0x75, 0x6E, 0x6B] := by
  decide +kernel

/-- MSG.G holds the address and the timestamp, the payload is in IBUF. -/
def gst (addr ts text : List Byte) (kind enc flags : Word) : State :=
  { st text with
    msgG := { addr := addr, addrLen := BitVec.ofNat 8 addr.length, ts := ts, tsLen := BitVec.ofNat 8 ts.length }
    arg0 := kind, arg1 := enc, arg2 := flags }

-- V5
theorem test_encgsm : encGsm cfg [0x48, 0x69] { addr := [0x2B, 0x33, 0x33, 0x36, 0x34, 0x33, 0x35, 0x33, 0x37, 0x39, 0x31, 0x39], addrLen := 12, ts := [0x31, 0x34, 0x2F, 0x30, 0x37, 0x2F, 0x33, 0x31, 0x2C, 0x32, 0x30, 0x3A, 0x35, 0x35, 0x3A, 0x31, 0x37, 0x2B, 0x30, 0x38], tsLen := 20 }
    0 0 true false = .ok [0x00, 0x00, 0x0B, 0x91, 0x33, 0x46, 0x53, 0x73, 0x19, 0xF9, 0x00, 0x00, 0x41, 0x70, 0x13, 0x02, 0x55, 0x71, 0x80, 0x02, 0xC8, 0x34] := by decide +kernel
theorem test_encgsm_step : (run .encgsm (gst [0x30, 0x36, 0x31, 0x32, 0x33, 0x34, 0x35, 0x36, 0x37, 0x38] [] [0x61, 0x7B, 0x62] 1 0 1)).olen = 18 ∧
    memRead (run .encgsm (gst [0x30, 0x36, 0x31, 0x32, 0x33, 0x34, 0x35, 0x36, 0x37, 0x38] [] [0x61, 0x7B, 0x62] 1 0 1)).obuf 13 = 0x04 := by decide +kernel
theorem test_decgsm : (run .decgsm { st [0x00, 0x00, 0x0B, 0x91, 0x33, 0x46, 0x53, 0x73, 0x19, 0xF9, 0x00, 0x00, 0x41, 0x70, 0x13, 0x02, 0x55, 0x71, 0x80, 0x02, 0xC8, 0x34] with arg2 := 1 }).msgG.ts.take 20 =
    [0x31, 0x34, 0x2F, 0x30, 0x37, 0x2F, 0x33, 0x31, 0x2C, 0x32, 0x30, 0x3A, 0x35, 0x35, 0x3A, 0x31, 0x37, 0x2B, 0x30, 0x38] := by decide +kernel
theorem test_decgsm_ucs2 : (run .decgsm (st [0x01, 0x00, 0x02, 0x81, 0x12, 0x00, 0x08, 0x04, 0x00, 0x48, 0x00, 0x69])).msgG.data.take 4 = [0x00, 0x48, 0x00, 0x69] ∧
    (run .decgsm (st [0x01, 0x00, 0x02, 0x81, 0x12, 0x00, 0x08, 0x04, 0x00, 0x48, 0x00, 0x69])).msgG.format = 3 := by decide +kernel

-- V6, V7, V8
theorem test_deccdma : (run .deccdma (st [0x00, 0x08, 0x0D, 0x00, 0x03, 0x20, 0x00, 0x10, 0x16, 0x03, 0xAA, 0xBB, 0xCC, 0x08, 0x01, 0x80])).msgC =
    { parameterMask := 0x100, bearer :=
      { subParameterMask := 0x101, messageIdentifier := { messageType := 2, messageId := 1 }, priority := 2 } } ∧
    (run .deccdma (st [0x00, 0x08, 0x0D, 0x00, 0x03, 0x20, 0x00, 0x10, 0x16, 0x03, 0xAA, 0xBB, 0xCC, 0x08, 0x01, 0x80])).diag = 1 := by decide +kernel
theorem test_deccdma_resync : (run .deccdma (st [0x00, 0x08, 0x04, 0x01, 0x02, 0x10, 0x10, 0x06, 0x01, 0x54])).msgC.bearerReplySeq = 21 := by
  decide +kernel
theorem test_enccdma : outs 4 (run .enccdma { st [] with
    msgC := { parameterMask := 0x80, cause := { replySeq := 63, causeCode := 9 } } }) = [0x00, 0x07, 0x01, 0xFC] := by
  decide +kernel
theorem test_enccdma_fault : (run .enccdma { st [] with
    msgC := { format := 3, parameterMask := 0x100, bearer := { subParameterMask := 2, userData := { encoding := 5 } } } }).status =
      3 := by decide +kernel
theorem test_illegal : (run (.illegal 0) { st [] with diag := 7 }).status = 3 ∧
    (run (.illegal 0) { st [] with diag := 7 }).diag = 0 := by decide +kernel

/-! ### Elements -/

/-- DECGSM running over `l`, its locals as given. -/
def gw (l : List Byte) (g : GsmWork) : State := { st l with work := { op := .decgsm, gsm := g } }

theorem test_mti : (run .mtiDeliver (gw [] { kind := 1 })).work.gsm.kind = 0 ∧
    (run .mtiSubmit (gw [] {})).work.gsm.kind = 1 := by decide +kernel
theorem test_mti_refused : (run .mti10 (gw [] {})).status = 1 ∧ (run .mti11 (gw [] {})).status = 1 ∧
    (run .udhi (gw [] {})).status = 1 := by decide +kernel
theorem test_vpf : ((run .vpfNone (gw [1, 2, 3, 4, 5, 6, 7] { kind := 1 })).work.gsm.pos,
    (run .vpfRelative (gw [1, 2, 3, 4, 5, 6, 7] { kind := 1 })).work.gsm.pos,
    (run .vpfEnhanced (gw [1, 2, 3, 4, 5, 6, 7] { kind := 1 })).work.gsm.pos,
    (run .vpfAbsolute (gw [1, 2, 3, 4, 5, 6, 7] { kind := 1 })).work.gsm.pos) = (0, 1, 7, 7) := by decide +kernel
theorem test_srr : (run .srr (gw [] { kind := 1 })).work.gsm.srr = 1 ∧ (run .srr (gw [] {})).work.gsm.srr = 0 := by
  decide +kernel
theorem test_dcs_select : ([Instr.dcsG07bit, .dcsG08bit, .dcsG0Ucs2, .dcsG0Reserved, .dcsGF7bit, .dcsGF8bit].map
    (fun i => (run i (gw [] { alpha := 3 })).work.gsm.alpha)) = [0, 1, 2, 3, 0, 1] := by decide +kernel
theorem test_dcs_take : ([Instr.dcsG07bit, .dcsG08bit, .dcsG0Ucs2, .dcsGF7bit, .dcsGF8bit].map
    (fun i => (run i (gw [0xC8, 0x34] { udl := some 2 })).work.gsm.data)) =
    [[0x48, 0x69], [0xC8, 0x34], [0xC8, 0x34], [0x48, 0x69], [0xC8, 0x34]] := by decide +kernel
theorem test_dcs_refused : ([Instr.dcsG01, .dcsG10, .dcsG1100, .dcsG1101, .dcsG1110].map
    (fun i => (run i (gw [] {})).status)) = [1, 1, 1, 1, 1] ∧
    (run .dcsG0Reserved (gw [0xC8, 0x34] { udl := some 2 })).status = 1 := by decide +kernel
theorem test_toa : (run .toaInternational { st [] with work := { op := .decaddr } }).work.text.out = [0x2B] := by
  decide +kernel
theorem test_esc : (run .esc { st [] with work := { op := .unpack7 } }).work.text =
    { esc := true, out := [], cap := 160 } := by decide +kernel
theorem test_escapes : ([Instr.esc0C, .esc5E, .esc7B, .esc7D, .esc5C, .esc5B, .esc7E, .esc5D, .esc7C].map
    (fun i => (run i { st [] with work := { op := .unpack7, text := { esc := true } } }).work.text.out)) =
    [[0x0C], [0x5E], [0x7B], [0x7D], [0x5C], [0x5B], [0x7E], [0x5D], [0x7C]] := by decide +kernel

/-- DECCDMA running over a body, its header just read. -/
def dw (l : List Byte) : State := { rst l 0 0 with work := { op := .deccdma, bEnd := 4096 } }

/-- ENCCDMA running on a record. -/
def ew (m : CdmaPdu) : State := { wst [] 64 0 0 0 with msgC := m, work := { op := .enccdma } }

theorem test_fmt : ([Instr.fmtPointToPoint, .fmtBroadcast, .fmtAcknowledge].map
    (fun i => ((run i (dw [])).work.m.format, outs 1 (run i (ew {}))))) = [(0, [0]), (1, [1]), (2, [2])] := by
  decide +kernel
theorem test_fmt_undefined : (run (.fmtUndefined 3) (dw [])).status = 1 ∧ (run (.fmtUndefined 3) (ew {})).status = 3 := by
  decide +kernel

/-- Parameters 0 to 7 decode from their bodies (V6). -/
theorem test_params_decode :
    (run (.pTeleservice 2) (dw [0x10, 0x02])).work.m = { parameterMask := 1, teleserviceId := 0x1002 } ∧
    (run (.pServcat 2) (dw [0x00, 0x21])).work.m = { parameterMask := 2, serviceCategory := 0x21 } ∧
    (run (.pOrigaddr 5) (dw [0x88, 0x81, 0x18, 0x99, 0x00])).work.m = { parameterMask := 4, origAddr :=
      { digitMode := 1, numberType := 1, numberPlan := 1, fieldsNumber := 2, chari := [0x31, 0x32] } } ∧
    (run (.pOrigsub 3) (dw [0x10, 0x14, 0x10])).work.m =
      { parameterMask := 8, origSubaddr := { odd := 1, fieldsNumber := 1, chari := [0x41] } } ∧
    (run (.pDestaddr 3) (dw [0xD0, 0x0B, 0x08])).work.m = { parameterMask := 16, destAddr :=
      { digitMode := 1, numberMode := 1, numberType := 2, fieldsNumber := 1, chari := [0x61] } } ∧
    (run (.pDestsub 4) (dw [0x20, 0x24, 0x24, 0x30])).work.m = { parameterMask := 32, destSubaddr :=
      { type := 1, fieldsNumber := 2, chari := [0x42, 0x43] } } ∧
    (run (.pBearerreply 1) (dw [0xA8])).work.m = { parameterMask := 64, bearerReplySeq := 42 } ∧
    (run (.pCause 2) (dw [0x16, 0x21])).work.m =
      { parameterMask := 128, cause := { replySeq := 5, errorClass := 2, causeCode := 0x21 } } ∧
    (run (.pBearerdata 3) (dw [0x08, 0x01, 0x80])).work.m =
      { parameterMask := 256, bearer := { subParameterMask := 256, priority := 2 } } := by decide +kernel

/-- A record with every parameter present, for the encode tests (V8). -/
def full : CdmaPdu :=
  { parameterMask := 0x1FF, teleserviceId := 0x1002, serviceCategory := 0x21
    origAddr := { digitMode := 1, numberType := 1, numberPlan := 1, fieldsNumber := 2, chari := [0x31, 0x32] }
    origSubaddr := { odd := 1, fieldsNumber := 1, chari := [0x41] }
    destAddr := { digitMode := 1, numberMode := 1, numberType := 2, fieldsNumber := 1, chari := [0x61] }
    destSubaddr := { type := 1, fieldsNumber := 2, chari := [0x42, 0x43] }
    bearerReplySeq := 42, cause := { replySeq := 5, errorClass := 2, causeCode := 0x21 }
    bearer :=
      { subParameterMask := 0x32FFFF
        messageIdentifier := { messageType := 1, messageId := 0xBEEF }
        userData := { encoding := 0, fieldsNumber := 2, chari := [0xDE, 0xAD] }
        userResponseCode := 7
        messageCenterTimeStamp := { year := 0x14, month := 0x07, day := 0x31, hours := 0x20, minutes := 0x55, seconds := 0x17 }
        validityPeriodAbsolute := { year := 0x15, month := 0x01, day := 0x02, hours := 0x03, minutes := 0x04, seconds := 0x05 }
        validityPeriodRelative := 0xA7
        deferredDeliveryTimeAbsolute := { year := 0x16, month := 0x06, day := 0x07, hours := 0x08, minutes := 0x09, seconds := 0x10 }
        deferredDeliveryTimeRelative := 0x3B
        priority := 2, privacy := 1, replyOption := { userAck := 1, readAck := 1 }
        messageCount := 0x12, alertPriority := 3, language := 1
        callBackNumber := { fieldsNumber := 3, chari := [1, 2, 3] }
        displayMode := 1, depositIndex := 0x1234
        messageStatus := { errorClass := 2, statusCode := 5 }, tpFailureCause := 0x80 } }

/-- Parameters 0 to 7 encode to their TLVs (V8). -/
theorem test_params_encode : (paramInstrs 0).map (fun x =>
      outs ((run x.2 (ew full)).wc.pos / 8) (run x.2 (ew full))) =
    [[0x00, 2, 0x10, 0x02], [0x01, 2, 0x00, 0x21], [0x02, 5, 0x88, 0x81, 0x18, 0x99, 0x00],
     [0x03, 3, 0x10, 0x14, 0x10], [0x04, 3, 0xD0, 0x0B, 0x08], [0x05, 4, 0x20, 0x24, 0x24, 0x30], [0x06, 1, 0xA8],
     [0x07, 2, 0x16, 0x21]] := by decide +kernel
theorem test_bearer_encode : outs 5 (run (.pBearerdata 0)
    (ew { parameterMask := 0x100, bearer := { subParameterMask := 0x100, priority := 2 } })) = [0x08, 3, 0x08, 0x01, 0x80] := by decide +kernel
theorem test_param_unknown : (run (.pUnknown 9 1) (dw [0xFF, 0])).rc.pos = 8 ∧
    (run (.pUnknown 9 1) (dw [0xFF, 0])).diag = 1 := by decide +kernel

/-- The TLV of each implemented sub-parameter (V7). -/
def subTlvs : List (List Byte) :=
  [[0x00, 3, 0x1B, 0xEE, 0xF0], [0x01, 4, 0x00, 0x16, 0xF5, 0x68], [0x02, 1, 0x07],
   [0x03, 6, 0x14, 0x07, 0x31, 0x20, 0x55, 0x17], [0x04, 6, 0x15, 0x01, 0x02, 0x03, 0x04, 0x05], [0x05, 1, 0xA7],
   [0x06, 6, 0x16, 0x06, 0x07, 0x08, 0x09, 0x10], [0x07, 1, 0x3B], [0x08, 1, 0x80], [0x09, 1, 0x40], [0x0A, 1, 0xA0],
   [0x0B, 1, 0x12], [0x0C, 1, 0xC0], [0x0D, 1, 0x01], [0x0E, 3, 0x01, 0x89, 0x18], [0x0F, 1, 0x40],
   [0x11, 2, 0x12, 0x34], [0x14, 1, 0x85], [0x15, 1, 0x80]]

/-- Every sub-parameter encodes to its TLV. -/
theorem test_subs_encode : (subInstrs 0).map (fun x =>
    outs ((run x.2 (ew full)).wc.pos / 8) (run x.2 (ew full))) = subTlvs := by decide +kernel

/-- Every sub-parameter decodes its body to its slot alone, and sets its mask bit alone. -/
theorem test_subs_decode : ((subInstrs 0).zip subTlvs).all (fun x =>
    decide (((subInstrs (x.2.getD 1 0)).lookup x.1.1).map (fun i => (run i (dw (x.2.drop 2))).work.b) =
      some (withSubBit x.1.1 (copySub x.1.1 full.bearer {})))) = true := by decide +kernel

/-- A kind with no body, and an unknown identifier: skipped, DIAG bit 0 (R271); FAULT or nothing on encode (R330). -/
theorem test_subs_bodiless : (bodilessInstrs 1 ++ [(24, Instr.sUnknown 24 1)]).all (fun x =>
    decide ((run x.2 (dw [1, 2])).diag = 1 ∧ (run x.2 (dw [1, 2])).rc.pos = 8 ∧
      (run x.2 (ew { full with bearer := { subParameterMask := BitVec.ofNat 24 (2 ^ x.1) } })).status =
        if x.1 = 24 then 0 else 3)) = true := by decide +kernel

/-- Each handled tag reads one unit of its width (R253): "A" in 8, 7 or 16 bits. -/
theorem test_tags_decode : handledTags.all (fun x =>
    decide ((run x.1 (dw (if x.2.2 = 8 then [1, 0x41] else if x.2.2 = 7 then [1, 0x82] else [1, 0, 0x41]))).work.b =
      { subParameterMask := 2, userData := { encoding := x.2.1, fieldsNumber := 1, chari := [0x41] } })) = true := by
  decide +kernel

/-- A tag with no unit width: BODY_FAIL on decode (R253), UNSUPPORTED on encode (R312). -/
theorem test_tags_refused : [Instr.udEpm, .udShiftjis, .udKorean, .udGsmdcs, .udUndefined 11].all (fun i =>
    decide ((run i (dw [1, 0x41])).diag = 4 ∧ (run i (ew full)).status = 1)) = true := by decide +kernel

/-- ES_1 of each handled tag (R312): tag, count 1, one unit 0x41. -/
theorem test_tags_encode : handledTags.map (fun x => outs 4 (run x.1 (ew { full with
      bearer := { full.bearer with userData := { fieldsNumber := 1, chari := [0x41] } } }))) =
    [[0x00, 0x0A, 0x08, 0], [0x10, 0x0C, 0x10, 0], [0x18, 0x0C, 0x10, 0], [0x20, 0x08, 0x02, 0x08],
     [0x38, 0x0A, 0x08, 0], [0x40, 0x0A, 0x08, 0], [0x48, 0x0C, 0x10, 0]] := by decide +kernel

/-! ### The step and the host's port -/

theorem test_step : (nextOr (step (State.withFetchWord (st [1, 2, 3]) 32 0x00000001)) (st [])).rc.cap = 3 := by
  decide +kernel
theorem test_step_element : (nextOr (step (State.withFetchWord (gw [] {}) 8 0x01)) (st [])).work.gsm.kind = 1 := by
  decide +kernel
theorem test_step_reserved : (nextOr (step { st [] with cmd := 0x101 }) (st [])).status = 3 := by decide +kernel


/-! ### Witnesses: for each statement with hypotheses, a state and operands that meet them, each clause at a boundary
of its range -/

/-- The outcome is a next state. -/
def goesOn (o : Host.Outcome State Fault Refusal) : Bool :=
  match o with
  | .next _ => true
  | _ => false

theorem next_of {o : Host.Outcome State Fault Refusal} {s : State} (h : goesOn o = true) : o = .next (nextOr o s) := by
  cases o <;> first | rfl | cases h

theorem length_of {e : Option Nat} {len : Byte} (h : (e.all (fun n => decide (len.toNat = n))) = true) :
    LengthOk e len := by
  intro n hn; subst hn; simpa using h

theorem st_inv : (st [1, 2, 3]).Inv := by constructor <;> decide +kernel

theorem cmd_inv : ({ st [1, 2, 3] with cmd := 1 } : State).Inv := by constructor <;> decide +kernel

theorem witness_StepKeepsInvariant : ({ st [1, 2, 3] with cmd := 1 } : State).Inv ∧
    ∃ t, step { st [1, 2, 3] with cmd := 1 } = .next t :=
  ⟨cmd_inv, _, next_of (s := st []) (by decide +kernel)⟩

theorem witness_StepRunsDecoded :
    ((st []).sel = none ∧ decodeAt .cmd ({ st [] with cmd := 0x41 } : State).cmd = .ok .deccdma) ∧
    (({ st [] with sel := some (.foMti, 1) } : State).sel = some (.foMti, 1) ∧ decodeAt .foMti 1 = .ok .mtiSubmit) ∧
    decodeAt .cmd 0xFF = .ok (.illegal 0xFF) ∧
    ((st []).sel = none ∧ 256 ≤ ({ st [] with cmd := 256 } : State).cmd.toNat) := by decide +kernel

theorem witness_DecodeInvertsEncode : (Instr.illegal 9).wf = true ∧ (Instr.fmtUndefined 3).wf = true ∧
    (Instr.pUnknown 9 255).wf = true ∧ (Instr.sUnknown 24 255).wf = true ∧ (Instr.udUndefined 11).wf = true ∧
    Instr.rcinit.wf = true := by decide +kernel

theorem witness_DecodeIsWellFormed : decodeAt .cdmaParam 0x09FF = .ok (.pUnknown 9 0xFF) := by decide +kernel

theorem witness_IllegalCommand : ∀ op ∈ [(0x00 : Byte), 0x09, 0x0F, 0x12, 0x1F, 0x24, 0x2F, 0x32, 0x3F, 0x42, 0xFF],
    (op.toNat = 0 ∨ (0x09 ≤ op.toNat ∧ op.toNat ≤ 0x0F) ∨ (0x12 ≤ op.toNat ∧ op.toNat ≤ 0x1F) ∨
      (0x24 ≤ op.toNat ∧ op.toNat ≤ 0x2F) ∨ (0x32 ≤ op.toNat ∧ op.toNat ≤ 0x3F) ∨ 0x42 ≤ op.toNat) ∧
    ({ st [] with cmd := op.setWidth 32 } : State).sel = none := by decide +kernel

theorem witness_EveryOperationEnds : formatOf .deccdma = .cmd ∧ formatOf .rdbits = .cmd ∧ formatOf .wrbits = .cmd ∧
    formatOf .encgsm = .cmd ∧ (Instr.encgsm ≠ .deccdma ∧ Instr.encgsm ≠ .rdbits ∧ Instr.encgsm ≠ .wrbits) := by
  decide +kernel

theorem witness_NeverWritten : exec .pack7 (st []) = .next (run .pack7 (st [])) := next_of (by decide +kernel)

theorem witness_WcinitOpens : ({ st [] with arg0 := 256 } : State).arg0.toNat ≤ (st []).cfg.obufCap ∧
    (st []).cfg.obufCap < ({ st [] with arg0 := 257 } : State).arg0.toNat := by decide +kernel

theorem witness_RdbitsReads :
    ((rst [1] 0 0).rc.isOpen = true ∧ (rst [1] 0 0).arg0.toNat < 1) ∧
    ((rst [1] 0 33).rc.isOpen = true ∧ 32 < (rst [1] 0 33).arg0.toNat) ∧
    ((rst [1] 0 9).rc.isOpen = true ∧ 1 ≤ (rst [1] 0 9).arg0.toNat ∧ (rst [1] 0 9).arg0.toNat ≤ 32 ∧
      8 * (rst [1] 0 9).rc.cap < (rst [1] 0 9).rc.pos + (rst [1] 0 9).arg0.toNat) ∧
    ((rst [1, 2, 3, 4] 0 32).rc.isOpen = true ∧ 1 ≤ (rst [1, 2, 3, 4] 0 32).arg0.toNat ∧
      (rst [1, 2, 3, 4] 0 32).arg0.toNat ≤ 32 ∧
      (rst [1, 2, 3, 4] 0 32).rc.pos + (rst [1, 2, 3, 4] 0 32).arg0.toNat ≤ 8 * (rst [1, 2, 3, 4] 0 32).rc.cap) := by
  decide +kernel

theorem witness_WrbitsWrites :
    ((wst [] 1 0 0 0).wc.isOpen = true ∧ (wst [] 1 0 0 0).arg0.toNat < 1) ∧
    ((wst [] 1 0 33 0).wc.isOpen = true ∧ 32 < (wst [] 1 0 33 0).arg0.toNat) ∧
    ((wst [] 1 0 9 0).wc.isOpen = true ∧ 1 ≤ (wst [] 1 0 9 0).arg0.toNat ∧ (wst [] 1 0 9 0).arg0.toNat ≤ 32 ∧
      8 * (wst [] 1 0 9 0).wc.cap < (wst [] 1 0 9 0).wc.pos + (wst [] 1 0 9 0).arg0.toNat) ∧
    ((wst [] 4 0 32 5).wc.isOpen = true ∧ 1 ≤ (wst [] 4 0 32 5).arg0.toNat ∧ (wst [] 4 0 32 5).arg0.toNat ≤ 32 ∧
      (wst [] 4 0 32 5).wc.pos + (wst [] 4 0 32 5).arg0.toNat ≤ 8 * (wst [] 4 0 32 5).wc.cap) := by decide +kernel

theorem witness_ReadCursorMoves : (rst [1, 2] 9 2).rc.isOpen = true := by decide +kernel
theorem witness_FlushPads : (wst [] 2 9 0 0).wc.isOpen = true := by decide +kernel

theorem witness_WcpatchPatches :
    ((wst [] 2 15 1 7).wc.isOpen = true ∧ (wst [] 2 15 1 7).wc.pos < 8 * (wst [] 2 15 1 7).arg0.toNat + 8) ∧
    ((wst [] 2 16 1 7).wc.isOpen = true ∧ 8 * (wst [] 2 16 1 7).arg0.toNat + 8 ≤ (wst [] 2 16 1 7).wc.pos) := by
  decide +kernel

theorem witness_ClosedCursor : (st [1]).rc.isOpen = false ∧ (st [1]).wc.isOpen = false := by decide +kernel

theorem witness_PrimitivesMoveOn : (st [1, 2, 3]).Inv ∧
    (Instr.flush ∈ [Instr.rdbits, .wrbits, .skipb, .flush, .wcpatch] ∧
      exec .flush (st [1, 2, 3]) = .next (run .flush (st [1, 2, 3]))) ∧
    (Instr.rcinit ∈ [Instr.rcinit, .rdbits, .wrbits, .skipb, .flush, .rcseek, .wcpatch] ∧
      exec .rcinit (st [1, 2, 3]) = .next (run .rcinit (st [1, 2, 3]))) :=
  ⟨st_inv, ⟨by decide, next_of (by decide +kernel)⟩, ⟨by decide, next_of (by decide +kernel)⟩⟩

theorem witness_BitsRoundTrip : 5 < 2 ^ 32 ∧ 5 ≤ (st []).cfg.obufCap ∧ 5 ≤ (st []).cfg.ibufCap ∧
    (∀ x ∈ [((5 : Word), 3), (0xFFFFFFFF, 32), (1, 5)], 1 ≤ x.2 ∧ x.2 ≤ 32) ∧
    ([((5 : Word), 3), (0xFFFFFFFF, 32), (1, 5)].map (fun x => x.2)).sum ≤ 8 * 5 := by decide +kernel

/-- Eight characters and a capacity. -/
def pst (cap : Word) : State := { st [0x61, 0x62, 0x63, 0x64, 0x65, 0x66, 0x67, 0x68] with arg1 := cap }

theorem witness_Pack7Packs : (pst 7).ilen.toNat ≤ (pst 7).cfg.ibufCap ∧ (pst 7).arg1.toNat ≤ (pst 7).cfg.obufCap ∧
    7 * (septetsOf (pst 7).cfg (input (pst 7))).length ≤ 8 * (pst 7).arg1.toNat := by decide +kernel

theorem witness_Pack7Refuses :
    (st []).cfg.ibufCap < ({ st [] with ilen := 257 } : State).ilen.toNat ∧
    (pst 257).cfg.obufCap < (pst 257).arg1.toNat ∧
    ((pst 6).ilen.toNat ≤ (pst 6).cfg.ibufCap ∧ (pst 6).arg1.toNat ≤ (pst 6).cfg.obufCap ∧
      8 * (pst 6).arg1.toNat < 7 * (septetsOf (pst 6).cfg (input (pst 6))).length) := by decide +kernel

/-- "hello" packed, a count and a capacity. -/
def ust (count cap : Word) : State := { st [0xE8, 0x32, 0x9B, 0xFD, 0x06] with arg0 := count, arg1 := cap }

theorem witness_Unpack7Unpacks :
    (st []).cfg.ibufCap < ({ st [] with ilen := 257 } : State).ilen.toNat ∧
    (ust 5 257).cfg.obufCap < (ust 5 257).arg1.toNat ∧
    (ust 6 160).ilen.toNat < (7 * (ust 6 160).arg0.toNat + 7) / 8 ∧
    ((ust 5 4).ilen.toNat ≤ (ust 5 4).cfg.ibufCap ∧ (ust 5 4).arg1.toNat ≤ (ust 5 4).cfg.obufCap ∧
      (7 * (ust 5 4).arg0.toNat + 7) / 8 ≤ (ust 5 4).ilen.toNat ∧
      (ust 5 4).arg1.toNat < (unescape (ust 5 4).cfg (septets (input (ust 5 4)) (ust 5 4).arg0.toNat)).length) ∧
    ((ust 5 5).ilen.toNat ≤ (ust 5 5).cfg.ibufCap ∧ (ust 5 5).arg1.toNat ≤ (ust 5 5).cfg.obufCap ∧
      (7 * (ust 5 5).arg0.toNat + 7) / 8 ≤ (ust 5 5).ilen.toNat ∧
      (unescape (ust 5 5).cfg (septets (input (ust 5 5)) (ust 5 5).arg0.toNat)).length ≤ (ust 5 5).arg1.toNat) := by
  decide +kernel

/-- Tables of two characters, "a" and, escaped, the left brace. -/
def twoTables : Config :=
  { cfg with
    a8to7 := ((List.replicate 256 63).set 0x61 0x61).set 0x7B 168
    a7to8 := (List.replicate 256 0x3F).set 0x61 0x61
    ext7to8 := [(40, 0x7B)] }

theorem twoTables_a8to7 (b : Byte) :
    a8to7At twoTables b = if b = 0x7B then 168 else if b = 0x61 then 0x61 else 63 := by
  have h := b.isLt
  have e1 : b = 0x7B ↔ 0x7B = b.toNat := ⟨fun x => x ▸ rfl, fun x => BitVec.eq_of_toNat_eq x.symm⟩
  have e2 : b = 0x61 ↔ 0x61 = b.toNat := ⟨fun x => x ▸ rfl, fun x => BitVec.eq_of_toNat_eq x.symm⟩
  simp only [a8to7At, twoTables, List.getD_eq_getElem?_getD, List.getElem?_set, List.length_set, List.length_replicate,
    List.getElem?_replicate, e1, e2]
  rw [if_pos (show b.toNat < 256 by omega)]
  split <;> split <;> first | rfl | omega

theorem twoTables_inverse : TablesInverse twoTables := by
  refine ⟨by decide +kernel, by decide +kernel, by decide +kernel, fun b hb => ?_⟩
  rw [twoTables_a8to7] at hb ⊢
  by_cases h1 : b = 0x7B
  · subst h1; decide +kernel
  · rw [if_neg h1] at hb ⊢
    by_cases h2 : b = 0x61
    · subst h2; decide +kernel
    · exact absurd (by rw [if_neg h2]; rfl) hb
/-- A machine with the two tables. -/
def tst (l : List Byte) (cap : Word) : State := { st l with cfg := twoTables, arg1 := cap }

theorem witness_TextRoundTrip : TablesInverse (tst [0x61, 0x7B, 0x62] 4).cfg ∧
    exec .pack7 (tst [0x61, 0x7B, 0x62] 4) = .next (run .pack7 (tst [0x61, 0x7B, 0x62] 4)) ∧
    (run .pack7 (tst [0x61, 0x7B, 0x62] 4)).status = 0 ∧ (tst [0x61, 0x7B, 0x62] 4).cfg.ibufCap < 2 ^ 31 ∧
    (run .pack7 (tst [0x61, 0x7B, 0x62] 4)).olen.toNat ≤ (tst [0x61, 0x7B, 0x62] 4).cfg.ibufCap ∧
    (tst [0x61, 0x7B, 0x62] 4).ilen.toNat ≤ (tst [0x61, 0x7B, 0x62] 4).cfg.obufCap :=
  ⟨twoTables_inverse, next_of (by decide +kernel), by decide +kernel, by decide +kernel, by decide +kernel,
    by decide +kernel⟩

/-- `+` and twenty digits: the longest address the defaults admit. -/
def longest : List Byte := 0x2B :: List.replicate 20 0x39

theorem longest_ok : AddressString cfg longest := by unfold AddressString IsDigit; decide +kernel

theorem cfg_wf : cfg.wf = true := by decide +kernel

theorem witness_EncaddrEncodes : (st longest).cfg.wf = true ∧
    ((st longest).ilen.toNat ≤ (st longest).cfg.ibufCap ∧ AddressString (st longest).cfg (input (st longest))) ∧
    (st []).cfg.ibufCap < ({ st [] with ilen := 257 } : State).ilen.toNat ∧
    ¬ AddressString (st (0x39 :: longest.tail)).cfg (input (st (0x39 :: longest.tail))) := by
  unfold AddressString IsDigit; decide +kernel

/-- Semi-octets, a digit count and a TOA. -/
def ast (l : List Byte) (cnt toa : Word) : State := { st l with arg0 := cnt, arg1 := toa }

theorem witness_DecaddrDecodes : (st []).cfg.wf = true ∧
    (st []).cfg.ibufCap < ({ st [] with ilen := 257 } : State).ilen.toNat ∧
    (ast [0x21] 3 0x81).ilen.toNat < ((ast [0x21] 3 0x81).arg0.toNat + 1) / 2 ∧
    (let s := ast (List.replicate 11 0x11) 22 0x81;
      s.ilen.toNat ≤ s.cfg.ibufCap ∧ (s.arg0.toNat + 1) / 2 ≤ s.ilen.toNat ∧
      s.cfg.addrStrCap < s.arg0.toNat + (plus (s.arg1.setWidth 8)).length + 1) ∧
    (let s := ast (List.replicate 10 0x11 ++ [0x1A]) 21 0x81;
      s.ilen.toNat ≤ s.cfg.ibufCap ∧ (s.arg0.toNat + 1) / 2 ≤ s.ilen.toNat ∧
      s.arg0.toNat + (plus (s.arg1.setWidth 8)).length + 1 ≤ s.cfg.addrStrCap ∧
      (20 < s.arg0.toNat ∧ 9 < nibble (input s) 20)) ∧
    (let s := ast (List.replicate 10 0x99) 20 0x91;
      s.ilen.toNat ≤ s.cfg.ibufCap ∧ (s.arg0.toNat + 1) / 2 ≤ s.ilen.toNat ∧
      s.arg0.toNat + (plus (s.arg1.setWidth 8)).length + 1 ≤ s.cfg.addrStrCap ∧
      ∀ i, i < s.arg0.toNat → nibble (input s) i ≤ 9) := by decide +kernel

theorem witness_AddressRoundTrip : (st longest).cfg.wf = true ∧
    exec .encaddr (st longest) = .next (run .encaddr (st longest)) ∧ (run .encaddr (st longest)).status = 0 ∧
    (st longest).ilen.toNat + 1 ≤ (st longest).cfg.addrStrCap ∧
    ((st longest).cfg.addrDigitsMax = 20 ∧ (st longest).cfg.addrStrCap = 22) :=
  ⟨by decide +kernel, next_of (by decide +kernel), by decide +kernel, by decide +kernel, by decide +kernel⟩

/-- "14/07/31,20:55:17-78": the largest tens digit of the zone. -/
def stamp : List Byte :=
  [0x31, 0x34, 0x2F, 0x30, 0x37, 0x2F, 0x33, 0x31, 0x2C, 0x32, 0x30, 0x3A, 0x35, 0x35, 0x3A, 0x31, 0x37, 0x2D, 0x37, 0x38]

theorem witness_EnctsEncodes : (st stamp).cfg.wf = true ∧
    ((st stamp).ilen.toNat ≤ (st stamp).cfg.ibufCap ∧ TimestampString (input (st stamp))) ∧
    (st []).cfg.ibufCap < ({ st [] with ilen := 257 } : State).ilen.toNat ∧
    ¬ TimestampString (input (st (stamp.set 18 0x38))) := by
  unfold TimestampString IsDigit; decide +kernel

theorem witness_DectsDecodes : (st []).cfg.wf = true ∧
    (let s := st [0x99, 0x99, 0x99, 0x99, 0x99, 0x99, 0x9F];
      s.ilen.toNat ≤ s.cfg.ibufCap ∧ s.ilen.toNat = 7 ∧ Decimal (input s)) ∧
    (st [1, 2, 3, 4, 5, 6]).ilen.toNat ≠ 7 ∧ ¬ Decimal (input (st [0x99, 0x99, 0x99, 0x99, 0x99, 0x99, 0xAF])) ∧
    (st []).cfg.ibufCap < ({ st [] with ilen := 257 } : State).ilen.toNat := by
  unfold Decimal; decide +kernel

theorem witness_TimestampRoundTrip : (st stamp).cfg.wf = true ∧
    exec .encts (st stamp) = .next (run .encts (st stamp)) ∧ (run .encts (st stamp)).status = 0 :=
  ⟨by decide +kernel, next_of (by decide +kernel), by decide +kernel⟩

/-- A Deliver with no SCA block: address "21", a 7-bit text "Hi". -/
def deliver : GsmFields :=
  { sca := [], fo := 0x04, mr := [], alen := 2, toa := 0x81, adr := [0x12], pid := 0, dcs := 0
    time := [0x41, 0x70, 0x13, 0x02, 0x55, 0x71, 0x80], udl := 2, ud := [0xC8, 0x34] }

/-- A Submit after an SCA block of one octet: address "+21", one octet of 8-bit data, status report requested. -/
def submit : GsmFields :=
  { sca := [1, 0x99], fo := 0x31, mr := [7], alen := 2, toa := 0x91, adr := [0x12], pid := 0, dcs := 0x04
    time := [0xAD], udl := 1, ud := [0xDE] }

theorem deliver_head : deliver.HeadOk cfg false := ⟨rfl, by decide, by decide, by decide, by decide, by decide⟩
theorem submit_head : submit.HeadOk cfg true :=
  ⟨⟨1, [0x99], rfl, rfl⟩, by decide, by decide, by decide, by decide, by decide⟩
theorem deliver_middle : deliver.MiddleOk := ⟨by decide, by decide⟩
theorem submit_middle : submit.MiddleOk := ⟨by decide, by decide⟩
theorem deliver_body : deliver.BodyOk cfg := by
  have h : alphabetOf deliver.dcs = some 0 := by decide
  simp only [GsmFields.BodyOk, h]; decide
theorem submit_body : submit.BodyOk cfg := by
  have h : alphabetOf submit.dcs = some 1 := by decide
  simp only [GsmFields.BodyOk, h]; decide

/-- A PDU in IBUF, with the flags. -/
def dst (l : List Byte) (flags : Word) : State := { st l with arg2 := flags }

theorem witness_DecgsmDecodes :
    (let s := dst (deliver.octets ++ [0xFF]) 2;
      s.cfg.wf = true ∧ s.ilen.toNat ≤ s.cfg.ibufCap ∧ s.arg2.toNat < 4 ∧ input s = deliver.octets ++ [0xFF] ∧
      s.arg2.getLsbD 0 = false) ∧
    deliver.HeadOk cfg false ∧ deliver.MiddleOk ∧ deliver.BodyOk cfg ∧
    (let s := dst submit.octets 3;
      s.cfg.wf = true ∧ s.ilen.toNat ≤ s.cfg.ibufCap ∧ s.arg2.toNat < 4 ∧ input s = submit.octets ++ [] ∧
      s.arg2.getLsbD 0 = true) ∧
    submit.HeadOk cfg true ∧ submit.MiddleOk ∧ submit.BodyOk cfg :=
  ⟨by decide +kernel, deliver_head, deliver_middle, deliver_body, by decide +kernel, submit_head, submit_middle,
    submit_body⟩

theorem witness_DecgsmCutShort :
    deliver.HeadOk cfg false ∧ deliver.MiddleOk ∧ deliver.BodyOk cfg ∧
    ∀ n ∈ [0, deliver.octets.length - 1],
      let s := dst (deliver.octets.take n) 0
      s.cfg.wf = true ∧ s.ilen.toNat ≤ s.cfg.ibufCap ∧ s.arg2.toNat < 4 ∧ s.arg2.getLsbD 0 = false ∧
      n < deliver.octets.length ∧ input s = deliver.octets.take n :=
  ⟨deliver_head, deliver_middle, deliver_body, by decide +kernel⟩

theorem witness_DecgsmRefuses_operands : cfg.wf = true ∧
    (st []).cfg.ibufCap < ({ st [] with ilen := 257 } : State).ilen.toNat ∧ 4 ≤ (dst [] 4).arg2.toNat := by
  decide +kernel

/-- Message type 0b10. -/
theorem witness_DecgsmRefuses_type :
    let f := { deliver with fo := 0x02 }
    let s := dst [0x02] 0
    s.cfg.wf = true ∧ s.ilen.toNat ≤ s.cfg.ibufCap ∧ s.arg2.toNat < 4 ∧ s.arg2.getLsbD 0 = false ∧ f.sca = [] ∧
    2 ≤ f.mti ∧ input s = f.sca ++ [f.fo] ++ [] := by decide +kernel

/-- Twenty-two digits need 23 octets of the address array's 22. -/
theorem witness_DecgsmRefuses_long :
    let f := { deliver with alen := 22, adr := List.replicate 11 0x11 }
    let s := dst (f.sca ++ [f.fo] ++ f.mr ++ [f.alen, f.toa] ++ f.adr ++ []) 0
    s.cfg.wf = true ∧ s.ilen.toNat ≤ s.cfg.ibufCap ∧ s.arg2.toNat < 4 ∧ s.arg2.getLsbD 0 = false ∧ f.sca = [] ∧
    f.mti ≤ 1 ∧ f.mr.length = f.mti ∧ f.adr.length = (f.alen.toNat + 1) / 2 ∧
    input s = f.sca ++ [f.fo] ++ f.mr ++ [f.alen, f.toa] ++ f.adr ++ [] ∧
    s.cfg.addrStrCap < f.alen.toNat + (plus f.toa).length + 1 := by decide +kernel

/-- The last of 21 semi-octets is 0xA. -/
theorem witness_DecgsmRefuses_digit :
    let f := { deliver with alen := 21, adr := List.replicate 10 0x11 ++ [0xFA] }
    let s := dst (f.sca ++ [f.fo] ++ f.mr ++ [f.alen, f.toa] ++ f.adr ++ []) 0
    s.cfg.wf = true ∧ s.ilen.toNat ≤ s.cfg.ibufCap ∧ s.arg2.toNat < 4 ∧ s.arg2.getLsbD 0 = false ∧ f.sca = [] ∧
    f.mti ≤ 1 ∧ f.mr.length = f.mti ∧ f.adr.length = (f.alen.toNat + 1) / 2 ∧
    input s = f.sca ++ [f.fo] ++ f.mr ++ [f.alen, f.toa] ++ f.adr ++ [] ∧
    f.alen.toNat + (plus f.toa).length + 1 ≤ s.cfg.addrStrCap ∧ 20 < f.alen.toNat ∧ 9 < nibble f.adr 20 := by
  decide +kernel

/-- Coding group 0100, the least of the refused ones. -/
theorem witness_DecgsmRefuses_group :
    let f := { deliver with dcs := 0x40 }
    let s := dst (f.head ++ [f.dcs] ++ []) 0
    f.HeadOk cfg false ∧ s.cfg.wf = true ∧ s.ilen.toNat ≤ s.cfg.ibufCap ∧ s.arg2.toNat < 4 ∧
    s.arg2.getLsbD 0 = false ∧ input s = f.head ++ [f.dcs] ++ [] ∧ alphabetOf f.dcs = none :=
  ⟨⟨rfl, by decide, by decide, by decide, by decide, by decide⟩, by decide +kernel⟩

/-- A header in a Submit with no validity period. -/
theorem witness_DecgsmRefuses_header :
    let f := { submit with fo := 0x41, time := [] }
    let s := dst (f.head ++ [f.dcs] ++ f.time ++ [f.udl] ++ []) 1
    f.HeadOk cfg true ∧ s.cfg.wf = true ∧ s.ilen.toNat ≤ s.cfg.ibufCap ∧ s.arg2.toNat < 4 ∧
    s.arg2.getLsbD 0 = true ∧ alphabetOf f.dcs ≠ none ∧ f.time.length = (if f.mti = 0 then 7 else vpOctets f.fo) ∧
    input s = f.head ++ [f.dcs] ++ f.time ++ [f.udl] ++ [] ∧ f.fo.getLsbD 6 = true :=
  ⟨⟨⟨1, [0x99], rfl, rfl⟩, by decide, by decide, by decide, by decide, by decide⟩, by decide +kernel⟩

/-- The PDU `deliver` with another coding scheme and length, and no user data; UCS-2 enabled or not. -/
def limited (d n : Byte) : GsmFields := { deliver with dcs := d, udl := n }

/-- The octets of `limited` in IBUF. -/
def limst (d n : Byte) (ucs2 : Bool) : State :=
  { dst ((limited d n).head ++ [d] ++ (limited d n).time ++ [n]) 0 with cfg := { cfg with ucs2DecodeEn := ucs2 } }

/-- The premises of DecgsmLimits on the state. -/
def LimitMet (d n : Byte) (ucs2 : Bool) : Prop :=
  (limst d n ucs2).ilen.toNat ≤ (limst d n ucs2).cfg.ibufCap ∧ (limst d n ucs2).arg2.toNat < 4 ∧
  (limst d n ucs2).arg2.getLsbD 0 = false ∧
  input (limst d n ucs2) = (limited d n).head ++ [(limited d n).dcs] ++ (limited d n).time ++ [(limited d n).udl] ++ []

/-- Alphabet 3; a disabled UCS-2; UDL one past its limit. -/
theorem witness_DecgsmLimits_states : LimitMet 0x0C 1 true ∧ LimitMet 0x08 1 false ∧ LimitMet 0x00 161 true ∧
    LimitMet 0x04 141 true ∧ LimitMet 0x08 141 true := by
  unfold LimitMet
  refine ⟨?_, ?_, ?_, ?_, ?_⟩ <;> decide +kernel

theorem witness_DecgsmLimits : (∀ b : Bool, ({ cfg with ucs2DecodeEn := b } : Config).wf = true) ∧
    (∀ (d n : Byte) (b : Bool), (limited d n).HeadOk { cfg with ucs2DecodeEn := b } false ∧ (limited d n).MiddleOk) ∧
    alphabetOf 0x0C = some 3 ∧ (alphabetOf 0x08 = some 2 ∧ (limst 0x08 1 false).cfg.ucs2DecodeEn = false) ∧
    (alphabetOf 0x00 = some 0 ∧ cfg.textCharsMax < (161 : Byte).toNat) ∧
    (alphabetOf 0x04 = some 1 ∧ cfg.udOctetsMax < (141 : Byte).toNat) ∧
    ((limst 0x08 141 true).cfg.ucs2DecodeEn = true ∧ cfg.udOctetsMax < (141 : Byte).toNat) :=
  ⟨fun b => by cases b <;> decide +kernel,
    fun _ _ _ => ⟨⟨rfl, deliver_head.type, deliver_head.reference, deliver_head.digits, deliver_head.decimal,
      deliver_head.fits⟩, ⟨deliver_middle.time, deliver_middle.noHeader⟩⟩,
    by decide +kernel, by decide +kernel, by decide +kernel, by decide +kernel, by decide +kernel⟩

/-- A Deliver of 160 letters, and a Submit of 140 octets, to the longest address. -/
theorem witness_EncgsmWrites :
    (let s := gst longest stamp (List.replicate 160 0x61) 0 0 3;
      s.cfg.wf = true ∧ s.ilen.toNat ≤ s.cfg.ibufCap ∧ s.arg2.toNat < 4 ∧ 1 ≤ s.ilen.toNat ∧
      s.ilen.toNat ≤ s.cfg.textCharsMax ∧ s.arg0.toNat ≤ 1 ∧ s.arg1.toNat ≤ 1 ∧
      AddressString s.cfg (arrayString s.msgG.addr s.msgG.addrLen) ∧
      TimestampString (arrayString s.msgG.ts s.msgG.tsLen) ∧
      7 * (septetsOf s.cfg (input s)).length ≤ 8 * s.cfg.udOctetsMax ∧
      (encoded s.cfg s.arg0.toNat s.arg1.toNat (s.arg2.getLsbD 0) (s.arg2.getLsbD 1)
        (arrayString s.msgG.addr s.msgG.addrLen) (arrayString s.msgG.ts s.msgG.tsLen) (input s)).length ≤ s.cfg.pduCap) ∧
    (let s := gst longest [] (List.replicate 140 0xFF) 1 1 0;
      s.cfg.wf = true ∧ s.ilen.toNat ≤ s.cfg.ibufCap ∧ s.arg2.toNat < 4 ∧ 1 ≤ s.ilen.toNat ∧
      s.ilen.toNat ≤ s.cfg.textCharsMax ∧ s.arg0.toNat ≤ 1 ∧ s.arg1.toNat ≤ 1 ∧ s.arg0.toNat ≠ 0 ∧
      AddressString s.cfg (arrayString s.msgG.addr s.msgG.addrLen) ∧ s.ilen.toNat ≤ s.cfg.udOctetsMax ∧
      (encoded s.cfg s.arg0.toNat s.arg1.toNat (s.arg2.getLsbD 0) (s.arg2.getLsbD 1)
        (arrayString s.msgG.addr s.msgG.addrLen) (arrayString s.msgG.ts s.msgG.tsLen) (input s)).length ≤
          s.cfg.pduCap) := by
  unfold AddressString TimestampString IsDigit; decide +kernel

theorem witness_EncgsmChecks_operands : cfg.wf = true ∧
    cfg.ibufCap < ({ st [] with ilen := 257 } : State).ilen.toNat ∧ 4 ≤ (gst [] [] [1] 0 0 4).arg2.toNat ∧ (gst [] [] [] 0 0 3).arg2.toNat < 4 ∧ (gst [] [] [] 0 0 0).ilen.toNat = 0 ∧
    cfg.textCharsMax < (gst [] [] (List.replicate 161 1) 0 0 0).ilen.toNat ∧
    ((gst [] [] [1] 0 0 0).ilen.toNat ≤ cfg.textCharsMax ∧ 2 ≤ (gst [] [] [1] 2 0 0).arg0.toNat) ∧
    ((gst [] [] [1] 1 2 0).arg0.toNat ≤ 1 ∧ 2 ≤ (gst [] [] [1] 1 2 0).arg1.toNat) := by decide +kernel

theorem witness_EncgsmChecks_strings :
    (let s := gst (0x39 :: longest.tail) [] [1] 1 1 0;
      1 ≤ s.ilen.toNat ∧ s.ilen.toNat ≤ s.cfg.textCharsMax ∧ s.arg0.toNat ≤ 1 ∧ s.arg1.toNat ≤ 1 ∧
      ¬ AddressString s.cfg (arrayString s.msgG.addr s.msgG.addrLen)) ∧
    (let s := gst longest (stamp.set 18 0x38) [1] 0 1 0;
      1 ≤ s.ilen.toNat ∧ s.ilen.toNat ≤ s.cfg.textCharsMax ∧ s.arg0.toNat = 0 ∧ s.arg1.toNat ≤ 1 ∧
      AddressString s.cfg (arrayString s.msgG.addr s.msgG.addrLen) ∧
      ¬ TimestampString (arrayString s.msgG.ts s.msgG.tsLen)) := by
  unfold AddressString TimestampString IsDigit; decide +kernel

theorem witness_EncgsmChecks_sizes :
    (let s := gst longest [] (List.replicate 81 0x7B) 1 0 0;
      1 ≤ s.ilen.toNat ∧ s.ilen.toNat ≤ s.cfg.textCharsMax ∧ s.arg0.toNat ≤ 1 ∧ s.arg0.toNat ≠ 0 ∧ s.arg1.toNat = 0 ∧
      AddressString s.cfg (arrayString s.msgG.addr s.msgG.addrLen) ∧
      8 * s.cfg.udOctetsMax < 7 * (septetsOf s.cfg (input s)).length) ∧
    (let s := gst longest [] (List.replicate 141 0) 1 1 0;
      1 ≤ s.ilen.toNat ∧ s.ilen.toNat ≤ s.cfg.textCharsMax ∧ s.arg0.toNat ≤ 1 ∧ s.arg0.toNat ≠ 0 ∧ s.arg1.toNat = 1 ∧
      AddressString s.cfg (arrayString s.msgG.addr s.msgG.addrLen) ∧ s.cfg.udOctetsMax < s.ilen.toNat) := by
  unfold AddressString IsDigit; decide +kernel

/-- The parameters at PDU_CAP 164 with addresses of 22 digits: the longest Deliver takes 165 octets. -/
def tight : Config := { cfg with pduCap := 164, addrDigitsMax := 22, addrStrCap := 24 }

theorem witness_EncgsmChecks_room : tight.wf = true ∧
    ∀ x ∈ [(List.replicate 160 0x61, (0 : Word)), (List.replicate 140 0xFF, 1)],
      let s : State := { gst (List.replicate 22 0x39) stamp x.1 0 x.2 1 with cfg := tight }
      s.ilen.toNat ≤ s.cfg.ibufCap ∧ s.arg2.toNat < 4 ∧ 1 ≤ s.ilen.toNat ∧ s.ilen.toNat ≤ s.cfg.textCharsMax ∧
      s.arg0.toNat ≤ 1 ∧ s.arg1.toNat ≤ 1 ∧ AddressString s.cfg (arrayString s.msgG.addr s.msgG.addrLen) ∧
      TimestampString (arrayString s.msgG.ts s.msgG.tsLen) ∧
      (s.arg1.toNat = 0 → 7 * (septetsOf s.cfg (input s)).length ≤ 8 * s.cfg.udOctetsMax) ∧
      (s.arg1.toNat = 1 → s.ilen.toNat ≤ s.cfg.udOctetsMax) ∧
      (encoded s.cfg s.arg0.toNat s.arg1.toNat (s.arg2.getLsbD 0) (s.arg2.getLsbD 1)
        (arrayString s.msgG.addr s.msgG.addrLen) (arrayString s.msgG.ts s.msgG.tsLen) (input s)).length =
          s.cfg.pduCap + 1 := by
  unfold AddressString TimestampString IsDigit; decide +kernel

/-- A Deliver with the two tables, and a Submit. -/
def rtst (kind enc : Word) : State := { gst longest stamp [0x61, 0x7B, 0x62] kind enc 3 with cfg := twoTables }

theorem witness_GsmRoundTrip : ∀ k ∈ [(0 : Word), 1], ∀ e ∈ [(0 : Word), 1],
    (rtst k e).cfg.wf = true ∧ TablesInverse (rtst k e).cfg ∧
    8 * (rtst k e).cfg.udOctetsMax < 7 * ((rtst k e).cfg.textCharsMax + 1) ∧
    exec .encgsm (rtst k e) = .next (run .encgsm (rtst k e)) ∧ (run .encgsm (rtst k e)).status = 0 ∧
    (rtst k e).msgG.addrLen.toNat + 1 ≤ (rtst k e).cfg.addrStrCap ∧
    (run .encgsm (rtst k e)).olen.toNat ≤ (rtst k e).cfg.ibufCap := by
  intro k hk e he
  fin_cases hk <;> fin_cases he <;>
    exact ⟨by decide +kernel, twoTables_inverse, by decide +kernel, next_of (by decide +kernel), by decide +kernel,
      by decide +kernel, by decide +kernel⟩

theorem witness_FlagElements : (gw [] { kind := 1 }).work.gsm.kind = 1 ∧ (gw [] {}).work.gsm.kind ≠ 1 := by
  decide +kernel

theorem witness_ValidityElements : (gw [] {}).work.gsm.kind ≠ 1 ∧
    (let s := gw [1, 2, 3, 4, 5, 6, 7, 8] { kind := 1, pos := 1 };
      s.work.gsm.kind = 1 ∧ s.work.gsm.pos + 7 ≤ s.ilen.toNat ∧ s.work.gsm.pos + 1 ≤ s.ilen.toNat ∧
      s.work.gsm.pos + 0 ≤ s.ilen.toNat) ∧
    (let s := gw [1, 2, 3, 4, 5, 6, 7] { kind := 1, pos := 1 };
      s.work.gsm.kind = 1 ∧ s.ilen.toNat < s.work.gsm.pos + 7) ∧
    (let s := gw [1] { kind := 1, pos := 1 };
      s.work.gsm.kind = 1 ∧ s.ilen.toNat < s.work.gsm.pos + 1) ∧
    (let s := gw [1] { kind := 1, pos := 2 };
      s.work.gsm.kind = 1 ∧ s.ilen.toNat < s.work.gsm.pos + 0) := by decide +kernel

theorem witness_CodingSelects : (gw [] {}).work.gsm.udl = none := by decide +kernel

/-- UDL at each limit and one past it, with the last octet there or missing. -/
theorem witness_CodingTakesUserData :
    cfg.wf = true ∧
    (gw [] { udl := some 161 }).work.gsm.udl = some 161 ∧ cfg.textCharsMax < (161 : Byte).toNat ∧
    ((160 : Byte).toNat ≤ cfg.textCharsMax ∧
      (gw (List.replicate 140 1) { pos := 1 }).ilen.toNat < 1 + (7 * (160 : Byte).toNat + 7) / 8 ∧
      1 + (7 * (160 : Byte).toNat + 7) / 8 ≤ (gw (List.replicate 141 1) { pos := 1 }).ilen.toNat) ∧
    cfg.udOctetsMax < (141 : Byte).toNat ∧
    ((140 : Byte).toNat ≤ cfg.udOctetsMax ∧
      (gw (List.replicate 140 1) { pos := 1 }).ilen.toNat < 1 + (140 : Byte).toNat ∧
      1 + (140 : Byte).toNat ≤ (gw (List.replicate 141 1) { pos := 1 }).ilen.toNat) ∧
    cfg.ucs2DecodeEn = true ∧
    ({ cfg with ucs2DecodeEn := false } : Config).wf = true ∧
    ({ cfg with ucs2DecodeEn := false } : Config).ucs2DecodeEn = false := by decide +kernel

theorem witness_EscapeElements :
    (let s := { st [] with work := { op := .unpack7, text := { out := List.replicate 159 0x61 } } };
      s.work.text.out.length < s.work.text.cap) ∧
    (let s := { st [] with work := { op := .unpack7, text := { out := List.replicate 160 0x61 } } };
      s.work.text.cap ≤ s.work.text.out.length) := by decide +kernel

theorem witness_DeccdmaEnds :
    (st []).cfg.ibufCap < ({ st [] with ilen := 257 } : State).ilen.toNat ∧ (st []).ilen.toNat = 0 ∧
    (1 ≤ (st [3]).ilen.toNat ∧ (st [3]).ilen.toNat ≤ (st [3]).cfg.ibufCap ∧ 2 < (memRead (st [3]).ibuf 0).toNat) ∧
    (1 ≤ (st [2]).ilen.toNat ∧ (st [2]).ilen.toNat ≤ (st [2]).cfg.ibufCap ∧ (memRead (st [2]).ibuf 0).toNat ≤ 2 ∧
      (st [2]).ilen.toNat = 1) ∧
    (1 ≤ (st [2, 9]).ilen.toNat ∧ (st [2, 9]).ilen.toNat ≤ (st [2, 9]).cfg.ibufCap ∧
      (memRead (st [2, 9]).ibuf 0).toNat ≤ 2 ∧ (st [2, 9]).ilen.toNat = 2) := by decide +kernel

/-- The octets of program P3. -/
def scenario3 : State := st [0x00, 0x08, 0x0D, 0x00, 0x03, 0x20, 0x00, 0x10, 0x16, 0x03, 0xAA, 0xBB, 0xCC, 0x08, 0x01, 0x80]

theorem witness_DeccdmaRecord : exec .deccdma scenario3 = .next (run .deccdma scenario3) ∧
    (run .deccdma scenario3).status = 0 := ⟨next_of (by decide +kernel), by decide +kernel⟩

theorem witness_UnknownParameterSkipped :
    let s := st [0x00, 0x09, 0x01, 0xFF, 0x00, 0x02, 0x10, 0x02]
    let s' := st [0x00, 0x00, 0x02, 0x10, 0x02]
    (0x00 : Byte).toNat ≤ 2 ∧ 8 < (0x09 : Byte).toNat ∧ [(0xFF : Byte)].length = (0x01 : Byte).toNat ∧ s.cfg = s'.cfg ∧
    s.ilen.toNat ≤ s.cfg.ibufCap ∧ s'.ilen.toNat ≤ s'.cfg.ibufCap ∧
    input s = 0x00 :: 0x09 :: 0x01 :: ([0xFF] ++ [0x00, 0x02, 0x10, 0x02]) ∧
    input s' = 0x00 :: [0x00, 0x02, 0x10, 0x02] ∧
    exec .deccdma s = .next (run .deccdma s) ∧ exec .deccdma s' = .next (run .deccdma s') :=
  ⟨by decide, by decide, by decide, rfl, by decide +kernel, by decide +kernel, by decide +kernel, by decide +kernel,
    next_of (by decide +kernel), next_of (by decide +kernel)⟩

/-- Two states alike in the operands and different elsewhere: an octet past ILEN, a cursor, an old result, the unlisted
registers. -/
theorem witness_CompositeStateless :
    let s := st [0x61]
    let s' : State := { st [0x61] with
      ibuf := memOctets 0 [0x61, 0x99], rc := { isOpen := true, cap := 9 }, olen := 7, g7 := 5 }
    s.cfg.wf = true ∧
    ∀ i ∈ [Instr.pack7, .unpack7, .encaddr, .decaddr, .encts, .dects, .encgsm, .decgsm, .enccdma, .deccdma],
      SameOperands i s s' ∧ exec i s = .next (run i s) ∧ exec i s' = .next (run i s') := by
  refine ⟨by decide +kernel, fun i hi => ⟨?_, ?_⟩⟩
  · exact ⟨rfl, rfl, fun _ => ⟨rfl, by decide +kernel⟩, fun _ => rfl, fun _ => rfl, fun _ => rfl, fun _ => rfl, fun _ => rfl⟩
  · fin_cases hi <;> exact ⟨next_of rfl, next_of rfl⟩

/-- A machine that holds the record, with a PDU capacity. -/
def cst (m : CdmaPdu) (cap : Nat) : State := { st [] with cfg := { cfg with cdmaPduCap := cap }, msgC := m }

/-- The record of V8.1 takes 121 octets: it has room in 121 and none in 120. -/
theorem witness_EnccdmaWrites : (cst full 121).msgC.format.toNat ≤ 2 ∧ ¬ HasBodiless (cst full 121).msgC ∧
    Wire.Fits (cst full 121).cfg (cst full 121).msgC ∧ ¬ HasNoWidth (cst full 121).msgC ∧
    Roomy (cst full 121).cfg (cst full 121).msgC := by
  unfold HasBodiless Wire.Fits HasNoWidth Roomy; decide +kernel

theorem witness_EnccdmaRefuses_record :
    2 < (cst { format := 3 } 255).msgC.format.toNat ∧
    (let m : CdmaPdu := { parameterMask := 0x100, bearer := { subParameterMask := 0x10000 } };
      m.format.toNat ≤ 2 ∧ HasBodiless m) ∧
    (let m : CdmaPdu := { parameterMask := 0x10, destAddr := { digitMode := 1, fieldsNumber := 51 } };
      m.format.toNat ≤ 2 ∧ ¬ HasBodiless m ∧ ¬ Wire.Fits cfg m) ∧
    (let m : CdmaPdu := { parameterMask := 0x100, bearer := { subParameterMask := 2, userData := { encoding := 5 } } };
      m.format.toNat ≤ 2 ∧ ¬ HasBodiless m ∧ Wire.Fits cfg m ∧ HasNoWidth m) := by
  unfold HasBodiless Wire.Fits HasNoWidth; decide +kernel

theorem witness_EnccdmaRefuses_room : (cst full 120).msgC.format.toNat ≤ 2 ∧ ¬ HasBodiless (cst full 120).msgC ∧
    Wire.Fits (cst full 120).cfg (cst full 120).msgC ∧ ¬ HasNoWidth (cst full 120).msgC ∧
    ¬ Roomy (cst full 120).cfg (cst full 120).msgC := by
  unfold HasBodiless Wire.Fits HasNoWidth Roomy; decide +kernel

theorem userData_ok : UserDataOk cfg full.bearer.userData := by
  have h : udUnit full.bearer.userData.encoding = 8 := by decide +kernel
  unfold UserDataOk UnitsOk
  rw [h]
  refine ⟨by decide, by decide, ⟨by decide, fun u hu => ?_⟩, by decide⟩
  have h2 : u = 0xDE ∨ u = 0xAD := by simpa [full] using hu
  rcases h2 with rfl | rfl <;> simp

theorem callBack_ok : CallBackOk cfg full.bearer.callBackNumber := by unfold CallBackOk UnitsOk; decide +kernel

theorem full_params_ok : ∀ i, i < 8 → ParamOk cfg i full := by
  have h1 : AddressOk cfg full.origAddr := by unfold AddressOk UnitsOk; decide +kernel
  have h2 : SubaddressOk cfg full.origSubaddr := by unfold SubaddressOk UnitsOk; decide +kernel
  have h3 : AddressOk cfg full.destAddr := by unfold AddressOk UnitsOk; decide +kernel
  have h4 : SubaddressOk cfg full.destSubaddr := by unfold SubaddressOk UnitsOk; decide +kernel
  have h5 : full.cause.errorClass = 0 → full.cause.causeCode = 0 := by decide +kernel
  intro i hi
  interval_cases i
  exacts [trivial, trivial, h1, h2, h3, h4, trivial, h5]

theorem full_subs_ok : ∀ i ∈ implemented, SubOk cfg i full.bearer := by
  intro i hi
  fin_cases hi
  exacts [trivial, userData_ok, trivial, trivial, trivial, trivial, trivial, trivial, trivial, trivial, trivial, trivial,
    trivial, trivial, callBack_ok, trivial, trivial, trivial, trivial]

theorem bearer_ok_of (k : BitVec 24) (h : ∀ i, i < 24 → k.getLsbD i = true → i ∈ implemented) :
    BearerOk cfg { full.bearer with subParameterMask := k } := by
  refine ⟨fun i hi => ?_, fun i hi _ => ?_⟩
  · refine h i ?_ hi
    by_contra hc
    rw [BitVec.getLsbD_of_ge _ _ (by omega)] at hi
    cases hi
  · have hs := full_subs_ok i hi
    unfold SubOk at hs ⊢
    exact hs

theorem full_bearer_ok : BearerOk cfg full.bearer := bearer_ok_of 0x32FFFF (by decide +kernel)

theorem full_ok : RecordOk cfg full := ⟨fun i hi _ => full_params_ok i hi, fun _ => full_bearer_ok⟩

theorem witness_CdmaRoundTrip :
    let s := { st [] with msgC := full }
    exec .enccdma s = .next (run .enccdma s) ∧ (run .enccdma s).status = 0 ∧ RecordOk s.cfg s.msgC ∧
    s.cfg.cdmaPduCap < 2 ^ 32 ∧ (run .enccdma s).olen.toNat ≤ s.cfg.ibufCap :=
  ⟨next_of (by decide +kernel), by decide +kernel, full_ok, by decide +kernel, by decide +kernel⟩

/-- ENCCDMA running on a record, WC open over `cap` octets at bit `pos`. -/
def ewAt (m : CdmaPdu) (cap pos : Nat) : State := { wst [] cap pos 0 0 with msgC := m, work := { op := .enccdma } }

theorem witness_FormatElements : (dw []).work.op ≠ .enccdma ∧
    ((ewAt {} 1 0).work.op = .enccdma ∧ (ewAt {} 1 0).wc.pos + 8 ≤ 8 * (ewAt {} 1 0).wc.cap) ∧
    ((ewAt {} 1 1).work.op = .enccdma ∧ 8 * (ewAt {} 1 1).wc.cap < (ewAt {} 1 1).wc.pos + 8) ∧
    2 < (3 : Byte).toNat := by decide +kernel

/-- The hypotheses of ParameterDecodes on the body `l` of parameter `id` of the full record, from octet 0. -/
def ParamMeets (id : Nat) (l : List Byte) : Prop :=
  (dw l).work.op ≠ .enccdma ∧ LengthOk (paramExpected id) (BitVec.ofNat 8 l.length) ∧ ParamOk (dw l).cfg id full ∧
  Holds (dw l).ibuf (dw l).rc.pos (param id full) ∧ (dw l).rc.pos + (param id full).length ≤ 8 * (dw l).rc.cap

theorem paramMeets_of (id : Nat) (l : List Byte) (h : id < 8)
    (hl : ((paramExpected id).all (fun n => decide ((BitVec.ofNat 8 l.length).toNat = n))) = true)
    (hh : Holds (dw l).ibuf (dw l).rc.pos (param id full))
    (hf : (dw l).rc.pos + (param id full).length ≤ 8 * (dw l).rc.cap) : ParamMeets id l :=
  ⟨by simp [dw], length_of hl, full_params_ok id h, hh, hf⟩

theorem witness_ParameterDecodes :
    ParamMeets 0 [0x10, 0x02] ∧ ParamMeets 1 [0x00, 0x21] ∧ ParamMeets 2 [0x88, 0x81, 0x18, 0x99, 0x00] ∧
    ParamMeets 3 [0x10, 0x14, 0x10] ∧ ParamMeets 4 [0xD0, 0x0B, 0x08] ∧ ParamMeets 5 [0x20, 0x24, 0x24, 0x30] ∧
    ParamMeets 6 [0xA8] ∧ ParamMeets 7 [0x16, 0x21] := by
  refine ⟨?_, ?_, ?_, ?_, ?_, ?_, ?_, ?_⟩ <;>
    exact paramMeets_of _ _ (by decide) (by decide +kernel) (by unfold Holds; decide +kernel) (by decide +kernel)

theorem witness_ParameterSkipped : (dw [1]).work.op ≠ .enccdma ∧ 8 < (9 : Byte).toNat ∧
    ¬ LengthOk (paramExpected 0) 3 ∧ ¬ LengthOk (paramExpected 1) 1 ∧ ¬ LengthOk (paramExpected 6) 0 ∧
    (LengthOk (paramExpected 0) 2 ∧ LengthOk (paramExpected 1) 2 ∧ LengthOk (paramExpected 6) 1 ∧
      LengthOk (paramExpected 2) 0) ∧
    8 * (dw [1]).rc.cap < (dw [1]).rc.pos + shortestParam 0 ∧
    8 * (dw [1]).rc.cap < (dw [1]).rc.pos + shortestParam 2 ∧
    8 * (dw []).rc.cap < (dw []).rc.pos + shortestParam 6 :=
  ⟨by decide +kernel, by decide, fun h => absurd (h 2 rfl) (by decide), fun h => absurd (h 2 rfl) (by decide),
    fun h => absurd (h 1 rfl) (by decide),
    ⟨length_of (by decide), length_of (by decide), length_of (by decide), length_of (by decide)⟩, by decide +kernel,
    by decide +kernel, by decide +kernel⟩

/-- The body of each parameter of the full record, its last octet cut off. -/
theorem witness_ParameterSkipped_cut :
    (∀ i, i < 8 → ParamOk cfg i full) ∧
    ∀ x ∈ [(0, [0x10]), (1, [0x00]), (2, [0x88, 0x81, 0x18, 0x99]), (3, [0x10, 0x14]), (4, [0xD0, 0x0B]),
      (5, [0x20, 0x24, 0x24]), (6, []), (7, [0x16])], (dw x.2).cfg = cfg ∧ EndsInside (dw x.2) (param x.1 full) :=
  ⟨full_params_ok, by unfold EndsInside Holds; decide +kernel⟩

/-- Counts one above what the 50 octets of a slot hold. -/
theorem witness_ParameterSkipped_count :
    (∀ x ∈ [(({ digitMode := 1, fieldsNumber := 51 } : CdmaAddress), [0x80, 0x19, 0x80]),
        ({ fieldsNumber := 101 }, [0x19, 0x40])],
      cfg.cdmaAddrCap < ceil8 (x.1.fieldsNumber.toNat * addrUnit x.1.digitMode) ∧
      Holds (dw x.2).ibuf (dw x.2).rc.pos (addressHead x.1)) ∧
    (let a : CdmaSubaddress := { fieldsNumber := 51 };
      cfg.cdmaSubaddrCap < a.fieldsNumber.toNat ∧
      Holds (dw [0x03, 0x30]).ibuf (dw [0x03, 0x30]).rc.pos (subaddressHead a)) := by
  unfold Holds; decide +kernel

/-- A message identifier and a priority in one Bearer Data, to the end of the buffer. -/
theorem witness_BearerDecodes :
    let s := dw [0x00, 0x03, 0x1B, 0xEE, 0xF0, 0x08, 0x01, 0x80]
    let v : CdmaBearer := { full.bearer with subParameterMask := 0x101 }
    s.work.op ≠ .enccdma ∧ s.rc.pos % 8 = 0 ∧ BearerOk s.cfg v ∧ (bearer v).length + 8 * 0 = 8 * (8 : Byte).toNat ∧
    Holds s.ibuf s.rc.pos (bearer v) ∧ s.rc.pos + 8 * (8 : Byte).toNat ≤ 8 * s.rc.cap :=
  ⟨by decide +kernel, by decide +kernel, bearer_ok_of 0x101 (by decide +kernel), by decide +kernel,
    by unfold Holds; decide +kernel, by decide +kernel⟩

/-- The same with one octet after the two, where a header is due. -/
theorem witness_BearerDecodes_trunc :
    let s := dw [0x00, 0x03, 0x1B, 0xEE, 0xF0, 0x08, 0x01, 0x80, 0x08]
    let v : CdmaBearer := { full.bearer with subParameterMask := 0x101 }
    s.work.op ≠ .enccdma ∧ s.rc.pos % 8 = 0 ∧ BearerOk s.cfg v ∧ (bearer v).length + 8 * 1 = 8 * (9 : Byte).toNat ∧
    Holds s.ibuf s.rc.pos (bearer v) ∧ s.rc.pos + 8 * (9 : Byte).toNat ≤ 8 * s.rc.cap :=
  ⟨by decide +kernel, by decide +kernel, bearer_ok_of 0x101 (by decide +kernel), by decide +kernel,
    by unfold Holds; decide +kernel, by decide +kernel⟩

/-- Each parameter with its bit clear, and set with exactly the room its TLV takes. -/
theorem witness_ParameterEncodes : ∀ x ∈ paramInstrs 0 ++ [(8, .pBearerdata 0)],
    ((ewAt {} 9 0).work.op = .enccdma ∧ (ewAt {} 9 0).msgC.parameterMask.getLsbD x.1 = false) ∧
    (let s := ewAt full ((Wire.tlv x.1 (body x.1 full)).length / 8 + 1) 8;
      s.work.op = .enccdma ∧ s.msgC.parameterMask.getLsbD x.1 = true ∧ s.wc.ovf = false ∧ s.wc.pos % 8 = 0 ∧
      ceil8 (body x.1 s.msgC).length ≤ 255 ∧
      s.wc.pos + (Wire.tlv x.1 (body x.1 s.msgC)).length ≤ 8 * s.wc.cap) := by decide +kernel

/-- The hypotheses of SubparameterDecodes on the body of a TLV of the full record's bearer. -/
def SubMeets (sid : Nat) (l : List Byte) : Prop :=
  (dw l).work.op ≠ .enccdma ∧ LengthOk (subExpected sid) (BitVec.ofNat 8 l.length) ∧
  SubOk (dw l).cfg sid full.bearer ∧ Holds (dw l).ibuf (dw l).rc.pos (sub sid full.bearer) ∧
  (dw l).rc.pos + (sub sid full.bearer).length ≤ 8 * (dw l).rc.cap

theorem subMeets_of (x : Nat × List Byte) (h : x.1 ∈ implemented)
    (hl : ((subExpected x.1).all (fun n => decide ((BitVec.ofNat 8 x.2.length).toNat = n))) = true)
    (hh : Holds (dw x.2).ibuf (dw x.2).rc.pos (sub x.1 full.bearer))
    (hf : (dw x.2).rc.pos + (sub x.1 full.bearer).length ≤ 8 * (dw x.2).rc.cap) : SubMeets x.1 x.2 :=
  ⟨by simp [dw], length_of hl, full_subs_ok _ h, hh, hf⟩

theorem witness_SubparameterDecodes : ∀ x ∈ implemented.zip (subTlvs.map (fun l => l.drop 2)), SubMeets x.1 x.2 := by
  have h1 : ∀ x ∈ implemented.zip (subTlvs.map (fun l => l.drop 2)), x.1 ∈ implemented ∧
      ((subExpected x.1).all (fun n => decide ((BitVec.ofNat 8 x.2.length).toNat = n))) = true ∧
      (dw x.2).rc.pos + (sub x.1 full.bearer).length ≤ 8 * (dw x.2).rc.cap := by decide +kernel
  have h2 : ∀ x ∈ implemented.zip (subTlvs.map (fun l => l.drop 2)),
      Holds (dw x.2).ibuf (dw x.2).rc.pos (sub x.1 full.bearer) := by unfold Holds; decide +kernel
  exact fun x hx => subMeets_of x (h1 x hx).1 (h1 x hx).2.1 (h2 x hx) (h1 x hx).2.2

theorem witness_SubparameterSkipped : (dw []).work.op ≠ .enccdma ∧ 23 < (24 : Byte).toNat ∧
    ¬ LengthOk (subExpected 0) 2 ∧ ¬ LengthOk (subExpected 3) 7 ∧ ¬ LengthOk (subExpected 17) 1 ∧
    ¬ LengthOk (subExpected 8) 2 ∧
    (LengthOk (subExpected 0) 3 ∧ LengthOk (subExpected 3) 6 ∧ LengthOk (subExpected 17) 2 ∧
      LengthOk (subExpected 8) 1 ∧ LengthOk (subExpected 1) 0) ∧
    (8 * (dw [0x1B, 0xEE]).rc.cap < (dw [0x1B, 0xEE]).rc.pos + shortestSub 0 ∧
      8 * (dw []).rc.cap < (dw []).rc.pos + shortestSub 8) :=
  ⟨by decide +kernel, by decide, fun h => absurd (h 3 rfl) (by decide), fun h => absurd (h 6 rfl) (by decide),
    fun h => absurd (h 2 rfl) (by decide), fun h => absurd (h 1 rfl) (by decide),
    ⟨length_of (by decide), length_of (by decide), length_of (by decide), length_of (by decide),
      length_of (by decide)⟩, by decide +kernel⟩

/-- The body of each sub-parameter of the full record, its last octet cut off. -/
theorem witness_SubparameterSkipped_cut :
    (∀ i ∈ implemented, SubOk cfg i full.bearer) ∧
    ∀ x ∈ implemented.zip (subTlvs.map (fun l => l.drop 2)), EndsInside (dw x.2.dropLast) (sub x.1 full.bearer) :=
  ⟨full_subs_ok, by unfold EndsInside Holds; decide +kernel⟩

/-- Counts one above what a slot holds, and a tag with no unit width. -/
theorem witness_SubparameterSkipped_count :
    (∀ x ∈ [(({ digitMode := 1, fieldsNumber := 51 } : CdmaCallBack), [0x80, 0x33]), ({ fieldsNumber := 101 }, [0x32, 0x80])],
      cfg.cdmaAddrCap < ceil8 (x.1.fieldsNumber.toNat * addrUnit x.1.digitMode) ∧
      Holds (dw x.2).ibuf (dw x.2).rc.pos (callBackHead x.1)) ∧
    (∀ x ∈ [(({ fieldsNumber := 141 } : CdmaUserData), [0x04, 0x68]), ({ encoding := 2, fieldsNumber := 161 }, [0x15, 0x08])],
      cfg.cdmaUdCap < ceil8 (x.1.fieldsNumber.toNat * udUnit x.1.encoding) ∧
      Holds (dw x.2).ibuf (dw x.2).rc.pos (field x.1.encoding ++ field x.1.fieldsNumber)) ∧
    (udUnit 5 = 0 ∧ Holds (dw [0x28]).ibuf (dw [0x28]).rc.pos (field (5 : BitVec 5))) := by
  unfold Holds; decide +kernel

theorem witness_SubparameterEncodes :
    (∀ x ∈ subInstrs 0,
      ((ewAt {} 9 0).work.op = .enccdma ∧ (ewAt {} 9 0).msgC.bearer.subParameterMask.getLsbD x.1 = false) ∧
      (let s := ewAt full ((Wire.tlv x.1 (sub x.1 full.bearer)).length / 8 + 1) 8;
        s.work.op = .enccdma ∧ s.msgC.bearer.subParameterMask.getLsbD x.1 = true ∧ s.wc.ovf = false ∧
        s.wc.pos % 8 = 0 ∧ ceil8 (sub x.1 s.msgC.bearer).length ≤ 255 ∧
        s.wc.pos + (Wire.tlv x.1 (sub x.1 s.msgC.bearer)).length ≤ 8 * s.wc.cap)) ∧
    (∀ x ∈ bodilessInstrs 0,
      (let s := ewAt { parameterMask := 0x100, bearer := { subParameterMask := BitVec.ofNat 24 (2 ^ x.1) } } 9 0;
        s.msgC.parameterMask.getLsbD 8 = true ∧ s.msgC.bearer.subParameterMask.getLsbD x.1 = true) ∧
      ((ewAt {} 9 0).msgC.parameterMask.getLsbD 8 = false ∧ (ewAt full 9 0).msgC.bearer.subParameterMask.getLsbD x.1 = false)) := by
  decide +kernel

theorem unit_ok (e : BitVec 5) (w : Nat) (h : udUnit e = w) (h7 : 7 ≤ w) (h16 : w ≤ 16) :
    UserDataOk cfg { encoding := e, fieldsNumber := 1, chari := [0x41] } := by
  unfold UserDataOk UnitsOk
  simp only [h]
  refine ⟨by omega, trivial, ⟨rfl, fun u hu => ?_⟩, ?_⟩
  · rw [List.mem_singleton] at hu
    subst hu
    exact lt_of_lt_of_le (by decide : (0x41 : Nat) < 2 ^ 7) (Nat.pow_le_pow_right (by omega) h7)
  · have h1 : (1 : Byte).toNat = 1 := rfl
    have h2 : cfg.cdmaUdCap = 140 := rfl
    rw [h1, h2]
    unfold ceil8
    omega

/-- The octets of a count 1 and one unit 0x41. -/
def oneUnit (w : Nat) : List Byte := if w = 8 then [1, 0x41] else if w = 7 then [1, 0x82] else [1, 0, 0x41]

/-- A count and its unit of each handled tag, to the end of the buffer. -/
theorem witness_EncodingDecodes : ∀ x ∈ handledTags,
    (dw (oneUnit x.2.2)).work.op ≠ .enccdma ∧
    UserDataOk (dw (oneUnit x.2.2)).cfg { encoding := x.2.1, fieldsNumber := 1, chari := [0x41] } ∧
    Holds (dw (oneUnit x.2.2)).ibuf (dw (oneUnit x.2.2)).rc.pos
      (bits 8 (1 : Byte).toNat ++ units x.2.2 [(0x41 : BitVec 16)] (1 : Byte).toNat) ∧
    (dw (oneUnit x.2.2)).rc.pos + (8 + x.2.2 * (1 : Byte).toNat) ≤ 8 * (dw (oneUnit x.2.2)).rc.cap := by
  have h1 : ∀ x ∈ handledTags, udUnit x.2.1 = x.2.2 ∧ 7 ≤ x.2.2 ∧ x.2.2 ≤ 16 ∧
      (dw (oneUnit x.2.2)).rc.pos + (8 + x.2.2 * (1 : Byte).toNat) ≤ 8 * (dw (oneUnit x.2.2)).rc.cap := by
    decide +kernel
  have h2 : ∀ x ∈ handledTags, Holds (dw (oneUnit x.2.2)).ibuf (dw (oneUnit x.2.2)).rc.pos
      (bits 8 (1 : Byte).toNat ++ units x.2.2 [(0x41 : BitVec 16)] (1 : Byte).toNat) := by
    unfold Holds; decide +kernel
  exact fun x hx => ⟨by simp [dw], unit_ok _ _ (h1 x hx).1 (h1 x hx).2.1 (h1 x hx).2.2.1, h2 x hx, (h1 x hx).2.2.2⟩

/-- A count whose units overrun the slot's buffer; one whose units overrun IBUF; a tag with no unit width. -/
theorem witness_EncodingDecodes_refused :
    (∀ x ∈ handledTags, Holds (dw [161]).ibuf (dw [161]).rc.pos (bits 8 (161 : Byte).toNat) ∧
      cfg.cdmaUdCap < ((161 : Byte).toNat * x.2.2 + 7) / 8) ∧
    (∀ x ∈ handledTags, Holds (dw [1]).ibuf (dw [1]).rc.pos (bits 8 (1 : Byte).toNat) ∧
      8 * (dw [1]).rc.cap < (dw [1]).rc.pos + (8 + x.2.2 * (1 : Byte).toNat)) ∧
    10 < (11 : BitVec 5).toNat := by
  unfold Holds; decide +kernel

theorem witness_EncodingEncodes :
    (∀ x ∈ handledTags,
      let s := ewAt full (if x.2.2 = 8 then 4 else if x.2.2 = 7 then 4 else 6) 1
      s.work.op = .enccdma ∧
      s.wc.pos + (13 + x.2.2 * s.msgC.bearer.userData.fieldsNumber.toNat) ≤ 8 * s.wc.cap) ∧
    10 < (11 : BitVec 5).toNat := by decide +kernel

end Sys2Proof.Tests
end

section
/-! PROOFS. What every operation and every wire-format element keeps, whatever it does: the fields that only the host
writes, and the state invariant. One relation carries both, so that each meaning is walked through once. -/

namespace Sys2Proof.Machine

/-! ### The relation -/

/-- `t` holds what only the host writes as `s` does (R21, R22, R24, R40), and is a good state if `s` is one. -/
structure Keeps (s t : State) : Prop where
  ibuf : t.ibuf = s.ibuf
  cmd : t.cmd = s.cmd
  ilen : t.ilen = s.ilen
  arg0 : t.arg0 = s.arg0
  arg1 : t.arg1 = s.arg1
  arg2 : t.arg2 = s.arg2
  g7 : t.g7 = s.g7
  cfg : t.cfg = s.cfg
  sel : t.sel = s.sel
  inv : s.Inv → t.Inv

theorem Keeps.refl (s : State) : Keeps s s := ⟨rfl, rfl, rfl, rfl, rfl, rfl, rfl, rfl, rfl, id⟩

theorem Keeps.trans {s t u : State} (h : Keeps s t) (h' : Keeps t u) : Keeps s u where
  ibuf := h'.ibuf.trans h.ibuf
  cmd := h'.cmd.trans h.cmd
  ilen := h'.ilen.trans h.ilen
  arg0 := h'.arg0.trans h.arg0
  arg1 := h'.arg1.trans h.arg1
  arg2 := h'.arg2.trans h.arg2
  g7 := h'.g7.trans h.g7
  cfg := h'.cfg.trans h.cfg
  sel := h'.sel.trans h.sel
  inv := h'.inv ∘ h.inv

/-! ### The updates the meanings are built from -/

theorem Keeps.start {s t : State} (h : Keeps s t) : Keeps s (start t) :=
  h.trans ⟨rfl, rfl, rfl, rfl, rfl, rfl, rfl, rfl, rfl, inv_start⟩

theorem Keeps.finish {s t : State} {k : Kind} (h : Keeps s t) : Keeps s (finish k t) :=
  h.trans ⟨rfl, rfl, rfl, rfl, rfl, rfl, rfl, rfl, rfl, inv_finish k⟩

theorem Keeps.raise {s t : State} {op : Running} {k : Kind} (h : Keeps s t) : Keeps s (raise op k t) :=
  h.trans ⟨by simp, by simp, by simp, by simp, by simp, by simp, by simp, by simp, by simp, inv_raise op k⟩

theorem Keeps.putOutput {s t : State} {cap : Nat} {l : List Byte} (h : Keeps s t) : Keeps s (putOutput cap l t) :=
  h.trans ⟨rfl, rfl, rfl, rfl, rfl, rfl, rfl, rfl, rfl, inv_putOutput cap l⟩

/-- The results outside OBUF and MSG.G, and the locals: an operation may write them, and the invariant bounds none. -/
theorem Keeps.results {s t : State} {olen res0 res1 : Word} {msgC : CdmaPdu} {work : Work} (h : Keeps s t) :
    Keeps s { t with olen := olen, res0 := res0, res1 := res1, msgC := msgC, work := work } :=
  h.trans ⟨rfl, rfl, rfl, rfl, rfl, rfl, rfl, rfl, rfl, fun hi => { hi with }⟩

theorem Keeps.rc {s t : State} {c : ReadCursor} (h : Keeps s t)
    (hc : t.Inv → c.cap ≤ t.cfg.ibufCap ∧ c.pos ≤ 8 * c.cap) : Keeps s { t with rc := c } :=
  h.trans ⟨rfl, rfl, rfl, rfl, rfl, rfl, rfl, rfl, rfl, fun hi =>
    { hi with rcCap := (hc hi).1, rcPos := (hc hi).2 }⟩

theorem Keeps.diag {s t : State} {d : Word} (h : Keeps s t) (hd : t.Inv → d.toNat < 32) :
    Keeps s { t with diag := d } :=
  h.trans ⟨rfl, rfl, rfl, rfl, rfl, rfl, rfl, rfl, rfl, fun hi => { hi with diagBits := hd hi }⟩

/-- What a decoder leaves: a cursor, DIAG, and a record in MSG.C or in the locals. -/
theorem Keeps.decoded {s t : State} {c : ReadCursor} {d : Word} {msgC : CdmaPdu} {work : Work} (h : Keeps s t)
    (hc : t.Inv → c.cap ≤ t.cfg.ibufCap ∧ c.pos ≤ 8 * c.cap) (hd : t.Inv → d.toNat < 32) :
    Keeps s { t with rc := c, diag := d, msgC := msgC, work := work } :=
  h.trans ⟨rfl, rfl, rfl, rfl, rfl, rfl, rfl, rfl, rfl, fun hi =>
    { hi with rcCap := (hc hi).1, rcPos := (hc hi).2, diagBits := hd hi }⟩

theorem State.Inv.wstream_good {s : State} (h : s.Inv) : s.wstream.Good s.cfg.obufCap :=
  ⟨h.wcPos, h.wcCap, h.obufForm, h.obufBound⟩

theorem Keeps.putW {s t : State} {w : WStream} (h : Keeps s t) (hw : t.Inv → w.Good t.cfg.obufCap) :
    Keeps s (t.putW w) :=
  h.trans ⟨rfl, rfl, rfl, rfl, rfl, rfl, rfl, rfl, rfl, fun hi =>
    { hi with
      obufForm := (hw hi).form
      obufBound := (hw hi).bound
      wcCap := (hw hi).cap
      wcPos := (hw hi).pos }⟩

/-- A run of writes on the state's own stream. -/
theorem Keeps.writes {s t : State} {w : WStream} (h : Keeps s t) (hw : t.wstream.Later w) : Keeps s (t.putW w) :=
  h.putW fun hi => hw.good _ hi.wstream_good

theorem Keeps.gsmRecord {s t : State} {w : GsmWork} {n : Nat} (h : Keeps s t) :
    Keeps s { t with msgG := gsmRecord t.cfg t.free w, free := n } :=
  h.trans ⟨rfl, rfl, rfl, rfl, rfl, rfl, rfl, rfl, rfl, fun hi =>
    { hi with
      addrArray := fillTo_length _ _ _
      tsArray := fillTo_length _ _ _
      dataArray := fillTo_length _ _ _ }⟩

/-! ### The bits of DIAG -/

theorem or_toNat_lt {a b : Word} {n : Nat} (ha : a.toNat < 2 ^ n) (hb : b.toNat < 2 ^ n) :
    (a ||| b).toNat < 2 ^ n := by
  rw [BitVec.toNat_or]; exact Nat.or_lt_two_pow ha hb

/-- The bits of DIAG that DECCDMA sets (R33). -/
def decoderBits : List Word := [diagUnknownId, diagLenMismatch, diagBodyFail, diagTrunc]

theorem decoderBit_lt {b : Word} {n : Nat} (hn : 4 ≤ n)
    (hb : b ∈ decoderBits) : b.toNat < 2 ^ n := by
  have h16 : b.toNat < 2 ^ 4 := by
    simp only [decoderBits, List.mem_cons, List.not_mem_nil, or_false] at hb
    rcases hb with rfl | rfl | rfl | rfl <;> decide
  exact h16.trans_le (Nat.pow_le_pow_right (by decide) hn)

@[simp] theorem resync_diag (t : Nat) (x : DecodeCtx) : (resync t x).diag = x.diag := rfl

section
variable {c : Config} {ib : Memory} {n : Nat} (hn : 4 ≤ n)
include hn

theorem flagDiag_lt {b : Word} (hb : b ∈ decoderBits)
    {x : DecodeCtx} (hx : x.diag.toNat < 2 ^ n) : (flagDiag b x).diag.toNat < 2 ^ n :=
  or_toNat_lt hx (decoderBit_lt hn hb)

theorem decodeSub_diag_lt (sid slen : Nat) {x : DecodeCtx} (hx : x.diag.toNat < 2 ^ n) :
    (decodeSub c ib sid slen x).diag.toNat < 2 ^ n := by
  rcases decodeSub_diag c ib sid slen x with h | ⟨b, hb, h⟩
  · rw [h]; exact hx
  · rw [h]; exact or_toNat_lt hx (decoderBit_lt hn (by simp [decoderBits] at hb ⊢; tauto))

theorem subLoop_diag_lt (fuel : Nat) {x : DecodeCtx} (hx : x.diag.toNat < 2 ^ n) :
    (subLoop c ib fuel x).diag.toNat < 2 ^ n := by
  induction fuel generalizing x with
  | zero => exact hx
  | succ fuel ih =>
    rw [subLoop]
    split
    · exact hx
    · split
      · exact flagDiag_lt hn (by simp [decoderBits]) hx
      · exact ih (decodeSub_diag_lt hn _ _ hx)

theorem decodeParamBody_diag_lt (id len : Nat) {x : DecodeCtx} (hx : x.diag.toNat < 2 ^ n) :
    (decodeParamBody c ib id len x).diag.toNat < 2 ^ n := by
  rw [decodeParamBody, resync_diag]
  split
  · exact flagDiag_lt hn (by simp [decoderBits]) hx
  · split
    · exact flagDiag_lt hn (by simp [decoderBits]) hx
    · split
      · exact subLoop_diag_lt hn _ hx
      · split
        · exact flagDiag_lt hn (by simp [decoderBits]) hx
        · exact hx

theorem paramLoop_diag_lt (fuel : Nat) {x : DecodeCtx} (hx : x.diag.toNat < 2 ^ n) :
    (paramLoop c ib fuel x).diag.toNat < 2 ^ n := by
  induction fuel generalizing x with
  | zero => exact hx
  | succ fuel ih =>
    rw [paramLoop]
    split
    · exact hx
    · split
      · exact flagDiag_lt hn (by simp [decoderBits]) hx
      · exact ih (decodeParamBody_diag_lt hn _ _ hx)

end

end Sys2Proof.Machine
end

section
/-! PROOFS. What the CDMA body decoders may read: the octets below the cursor's capacity and no others (R142, R148). -/

namespace Sys2Proof.Machine

/-- The two memories hold the same octets below `n`. -/
def SameBelow (n : Nat) (m m' : Memory) : Prop := ∀ a, a < n → memRead m a = memRead m' a

theorem SameBelow.refl (n : Nat) (m : Memory) : SameBelow n m m := fun _ _ => rfl

theorem streamBit_sameBelow {n : Nat} {m m' : Memory} (h : SameBelow n m m') {p : Nat} (hp : p < 8 * n) :
    streamBit m p = streamBit m' p := by
  unfold streamBit; rw [h (p / 8) (by omega)]

theorem readBits_sameBelow {n : Nat} {m m' : Memory} (h : SameBelow n m m') {p k : Nat} (hp : p + k ≤ 8 * n) :
    readBits m p k = readBits m' p k :=
  readBits_congr _ _ _ _ (fun _ hi => streamBit_sameBelow h (by omega))

theorem input_sameBelow {s s' : State} (hi : s.ilen = s'.ilen) (h : SameBelow s.ilen.toNat s.ibuf s'.ibuf) :
    input s = input s' := by
  unfold input memSlice
  rw [← hi]
  exact List.map_congr_left (fun k hk => h _ (by simpa using hk))

/-- On a cursor of capacity `n` the readers `f` and `f'` give the same answer, keep the capacity, and stay within
it. -/
structure Rd.Alike {α : Type} (n : Nat) (f f' : Rd α) : Prop where
  same : ∀ c : ReadCursor, c.cap = n → f c = f' c
  within : ∀ (c c' : ReadCursor) (v : α), c.cap = n → f c = some (v, c') →
    c'.cap = n ∧ (c.pos ≤ 8 * n → c'.pos ≤ 8 * n)

namespace Rd.Alike

variable {α β : Type} {n : Nat}

protected theorem pure (v : α) : Rd.Alike n (pure v) (pure v) where
  same _ _ := rfl
  within c c' v' hc h := by
    obtain ⟨-, rfl⟩ : v = v' ∧ c = c' := by simpa [pure, StateT.pure] using h
    exact ⟨hc, id⟩

protected theorem fail : Rd.Alike n (failBody : Rd α) failBody where
  same _ _ := rfl
  within _ _ _ _ h := by cases h

protected theorem bind {f f' : Rd α} {g g' : α → Rd β} (hf : Rd.Alike n f f') (hg : ∀ v, Rd.Alike n (g v) (g' v)) :
    Rd.Alike n (f >>= g) (f' >>= g') where
  same c hc := by
    simp only [Bind.bind, StateT.bind, ← hf.same c hc]
    cases h : f c with
    | none => rfl
    | some r => exact (hg r.1).same r.2 (hf.within c r.2 r.1 hc h).1
  within c c' v hc h := by
    simp only [Bind.bind, StateT.bind, Option.bind_eq_some_iff] at h
    obtain ⟨⟨u, d⟩, h1, h2⟩ := h
    obtain ⟨hd, hp⟩ := hf.within c d u hc h1
    obtain ⟨hd', hp'⟩ := (hg u).within d c' v hd h2
    exact ⟨hd', hp' ∘ hp⟩

protected theorem ite {p : Prop} [Decidable p] {f f' g g' : Rd α} (hf : Rd.Alike n f f') (hg : Rd.Alike n g g') :
    Rd.Alike n (if p then f else g) (if p then f' else g') := by
  split
  · exact hf
  · exact hg

section
variable {ib ib' : Memory} (h : SameBelow n ib ib')
include h

protected theorem rd (k : Nat) : Rd.Alike n (rd ib k) (rd ib' k) where
  same c hc := by
    unfold Machine.rd
    split
    · rfl
    · rw [readBits_sameBelow h (by omega)]
  within c c' v hc hr := by
    obtain ⟨h1, -, -, h4⟩ := rd_within hr
    exact ⟨h1.trans hc, fun _ => by omega⟩

/-- One field, read and stored. -/
protected theorem field (k : Nat) (g : BitVec k → α) :
    Rd.Alike n (do let v ← rd ib k; pure (g v)) (do let v ← rd ib' k; pure (g v)) :=
  .bind (.rd h k) (fun _ => .pure _)

/-- A field that is present only sometimes, and what is read after it. -/
protected theorem optional (k : Nat) {p : Prop} [Decidable p] {g g' : BitVec k → Rd α}
    (hg : ∀ v, Rd.Alike n (g v) (g' v)) :
    Rd.Alike n (if p then rd ib k >>= g else pure 0 >>= g) (if p then rd ib' k >>= g' else pure 0 >>= g') :=
  .ite (.bind (.rd h k) hg) (.bind (.pure _) hg)

protected theorem units (w k : Nat) : Rd.Alike n (rdUnits ib w k) (rdUnits ib' w k) := by
  induction k with
  | zero => exact .pure _
  | succ k ih => exact .bind (.rd h w) (fun _ => .bind ih (fun _ => .pure _))

protected theorem chari (d : BitVec 1) (k : Nat) : Rd.Alike n (rdChari ib d k) (rdChari ib' d k) :=
  .ite (.units h 8 k) (.bind (.units h 4 k) (fun _ => .pure _))

protected theorem address (c : Config) : Rd.Alike n (rdAddress c ib) (rdAddress c ib') :=
  .bind (.rd h 1) fun _ => .bind (.rd h 1) fun _ => .optional h 3 fun _ => .optional h 4 fun _ =>
    .bind (.rd h 8) fun _ => .ite .fail (.bind (.chari h _ _) fun _ => .pure _)

protected theorem subaddress (c : Config) : Rd.Alike n (rdSubaddress c ib) (rdSubaddress c ib') :=
  .bind (.rd h 3) fun _ => .bind (.rd h 1) fun _ => .bind (.rd h 8) fun _ =>
    .ite .fail (.bind (.units h 8 _) fun _ => .pure _)

protected theorem cause : Rd.Alike n (rdCause ib) (rdCause ib') :=
  .bind (.rd h 6) fun _ => .bind (.rd h 2) fun _ => .optional h 8 fun _ => .pure _

protected theorem userDataRest (c : Config) (e : BitVec 5) :
    Rd.Alike n (rdUserDataRest c ib e) (rdUserDataRest c ib' e) := by
  refine .optional h 8 fun _ => .bind (.rd h 8) fun _ => ?_
  split
  · exact .fail
  · exact .ite .fail (.bind (.units h _ _) fun _ => .pure _)

protected theorem date : Rd.Alike n (rdDate ib) (rdDate ib') :=
  .bind (.rd h 8) fun _ => .bind (.rd h 8) fun _ => .bind (.rd h 8) fun _ => .bind (.rd h 8) fun _ =>
    .bind (.rd h 8) fun _ => .field h 8 _

protected theorem callBack (c : Config) : Rd.Alike n (rdCallBack c ib) (rdCallBack c ib') :=
  .bind (.rd h 1) fun _ => .optional h 3 fun _ => .optional h 4 fun _ => .bind (.rd h 8) fun _ =>
    .ite .fail (.bind (.chari h _ _) fun _ => .pure _)

/-- The bodies of the top-level parameters (R245 to R250). -/
protected theorem paramBody (c : Config) (id : Nat) (m : CdmaPdu) :
    Rd.Alike n (paramBody c ib id m) (paramBody c ib' id m) := by
  unfold Machine.paramBody
  split
  case h_3 | h_5 => exact .bind (.address h c) fun _ => .pure _
  case h_4 | h_6 => exact .bind (.subaddress h c) fun _ => .pure _
  case h_8 => exact .bind (.cause h) fun _ => .pure _
  case h_9 => exact .fail
  all_goals exact .field h _ _

/-- The bodies of the sub-parameters (R252 to R270). -/
protected theorem subBody (c : Config) (sid : Nat) (b : CdmaBearer) :
    Rd.Alike n (subBody c ib sid b) (subBody c ib' sid b) := by
  unfold Machine.subBody
  split
  case h_1 => exact .bind (.rd h 4) fun _ => .bind (.rd h 16) fun _ => .field h 1 _
  case h_2 => exact .bind (.rd h 5) fun _ => .bind (.userDataRest h c _) fun _ => .pure _
  case h_4 | h_5 | h_7 => exact .bind (.date h) fun _ => .pure _
  case h_11 => exact .bind (.rd h 1) fun _ => .bind (.rd h 1) fun _ => .bind (.rd h 1) fun _ => .field h 1 _
  case h_15 => exact .bind (.callBack h c) fun _ => .pure _
  case h_18 => exact .bind (.rd h 2) fun _ => .field h 6 _
  case h_20 => exact .fail
  all_goals exact .field h _ _

end

end Rd.Alike

end Sys2Proof.Machine
end

section
/-! PROOFS. Each operation and each wire-format element goes on to a state that keeps what `Keeps` lists. -/

namespace Sys2Proof.Machine

open Host (Outcome)

/-- The outcome is a next state, which keeps what `Keeps` lists. -/
def GoesOn (s : State) (o : Outcome State Fault Refusal) : Prop := ∃ t, o = .next t ∧ Keeps s t

/-! ### What the operands are at the start of an operation -/

@[simp] theorem ilenTooLong_start (s : State) : ilenTooLong (start s) = ilenTooLong s := rfl
@[simp] theorem capTooLarge_start (s : State) (cap : Word) : capTooLarge (start s) cap = capTooLarge s cap := rfl
@[simp] theorem flagsReserved_start (s : State) : flagsReserved (start s) = flagsReserved s := rfl
@[simp] theorem scaFlag_start (s : State) : scaFlag (start s) = scaFlag s := rfl
@[simp] theorem srrFlag_start (s : State) : srrFlag (start s) = srrFlag s := rfl
@[simp] theorem input_start (s : State) : input (start s) = input s := rfl
@[simp] theorem toaOperand_start (s : State) : toaOperand (start s) = toaOperand s := rfl

/-! ### The operand checks as inequalities -/

theorem ilenTooLong_eq_false {s : State} : ilenTooLong s = false ↔ s.ilen.toNat ≤ s.cfg.ibufCap := by
  simp [ilenTooLong]

theorem capTooLarge_eq_false {s : State} {cap : Word} : capTooLarge s cap = false ↔ cap.toNat ≤ s.cfg.obufCap := by
  simp [capTooLarge]

theorem Config.wf_bounds {c : Config} (h : c.wf = true) :
    164 ≤ c.pduCap ∧ c.pduCap ≤ c.obufCap ∧ c.cdmaPduCap ≤ c.obufCap ∧ c.addrDigitsMax ≤ 255 ∧
      c.addrStrCap ≤ c.obufCap ∧ 21 ≤ c.tsStrCap ∧ c.tsStrCap ≤ c.obufCap ∧ c.tsUnknown.length + 1 ≤ c.tsStrCap := by
  simp only [Config.wf, Bool.and_eq_true, decide_eq_true_eq] at h
  omega

/-! ### The bit-buffer operations -/

theorem execRcinit_keeps (s : State) : GoesOn s (execRcinit s) := by
  refine ⟨_, rfl, ?_⟩
  split
  · exact .raise (.start (.refl s))
  next h => exact .finish (.rc (.start (.refl s)) fun _ => ⟨ilenTooLong_eq_false.1 (by simpa using h), Nat.zero_le _⟩)

theorem execWcinit_keeps (s : State) : GoesOn s (execWcinit s) := by
  refine ⟨_, rfl, ?_⟩
  split
  · exact .raise (.start (.refl s))
  next h =>
    have hc : (start s).arg0.toNat ≤ (start s).cfg.obufCap := capTooLarge_eq_false.1 (by simpa using h)
    exact .finish (.results (.putW (.start (.refl s)) fun hi =>
      good_openW (cap := s.arg0.toNat) hc hi.obufForm hi.obufBound))

theorem execRdbits_keeps (s : State) : GoesOn s (execRdbits s) := by
  refine ⟨_, rfl, ?_⟩
  split
  · exact .raise (.start (.refl s))
  · split
    · exact .raise (.diag (.results (.start (.refl s))) fun _ => by simp [diagWidth])
    · split
      · exact .raise (.results (.start (.refl s)))
      next v c h =>
        obtain ⟨hcap, -, -, hpos⟩ := rd_within h
        exact .finish (.results (.rc (.start (.refl s)) fun hi => ⟨hcap ▸ hi.rcCap, hpos⟩))

theorem execWrbits_keeps (s : State) : GoesOn s (execWrbits s) := by
  refine ⟨_, rfl, ?_⟩
  split
  · exact .raise (.start (.refl s))
  · split
    · exact .raise (.diag (.start (.refl s)) fun _ => by simp [diagWidth])
    · split
      · exact .raise (.writes (.start (.refl s)) (wr_later _ _ _))
      · exact .finish (.writes (.start (.refl s)) (wr_later _ _ _))

theorem execSkipb_keeps (s : State) : GoesOn s (execSkipb s) := by
  refine ⟨_, rfl, ?_⟩
  split
  · exact .raise (.start (.refl s))
  · exact .finish (.rc (.start (.refl s)) fun hi => ⟨hi.rcCap, skipb_within hi.rcPos⟩)

theorem execFlush_keeps (s : State) : GoesOn s (execFlush s) := by
  refine ⟨_, rfl, ?_⟩
  split
  · exact .raise (.start (.refl s))
  · exact .finish (.results (.writes (.start (.refl s)) (flushBits_later _)))

theorem execRcseek_keeps (s : State) : GoesOn s (execRcseek s) := by
  refine ⟨_, rfl, ?_⟩
  split
  · exact .raise (.start (.refl s))
  · exact .finish (.rc (.start (.refl s)) fun hi => ⟨hi.rcCap, seek_within _ _⟩)

theorem execWcpatch_keeps (s : State) : GoesOn s (execWcpatch s) := by
  refine ⟨_, rfl, ?_⟩
  split
  · exact .raise (.start (.refl s))
  · split
    · exact .raise (.start (.refl s))
    next h => exact .finish (.putW (.start (.refl s)) fun hi => good_patch _ _ (Nat.not_lt.1 h) hi.wstream_good)

/-! ### The text, address, timestamp and GSM operations -/

/-- The shape these operations share: a refused operand is FAULT, an error of the codec ends with its kind, an answer
is put out with OK (R91, R352). -/
def settle {α : Type} (op : Running) (refused : Bool) (r : Except Kind α) (out : α → State) (s : State) : State :=
  if refused then raise op .fault s
  else match r with
    | .error k => raise op k s
    | .ok a => finish .ok (out a)

theorem execPack7_eq (s : State) : execPack7 s = .next (settle .pack7 (ilenTooLong s || capTooLarge s s.arg1)
    (pack7 s.cfg (input s) s.arg1.toNat)
    (fun p => { putOutput s.arg1.toNat p.1 (start s) with olen := toWord p.1.length, res0 := toWord p.2 })
    (start s)) := by
  simp only [execPack7, settle, start_cfg, start_arg1, input_start, ilenTooLong_start, capTooLarge_start]
  cases pack7 s.cfg (input s) s.arg1.toNat <;> rfl

theorem execUnpack7_eq (s : State) : execUnpack7 s = .next (settle .unpack7 (ilenTooLong s || capTooLarge s s.arg1)
    (unpack7 s.cfg (input s) s.arg0.toNat s.arg1.toNat)
    (fun l => { putOutput s.arg1.toNat l (start s) with olen := toWord l.length }) (start s)) := by
  simp only [execUnpack7, settle, start_cfg, start_arg0, start_arg1, input_start, ilenTooLong_start,
    capTooLarge_start]
  cases unpack7 s.cfg (input s) s.arg0.toNat s.arg1.toNat <;> rfl

theorem execEncaddr_eq (s : State) : execEncaddr s = .next (settle .encaddr (ilenTooLong s) (encAddr s.cfg (input s))
    (fun p => { putOutput s.cfg.obufCap p.1 (start s) with
      olen := toWord p.1.length, res0 := toWord p.2.1, res1 := p.2.2.setWidth 32 }) (start s)) := by
  simp only [execEncaddr, settle, start_cfg, input_start, ilenTooLong_start]
  cases encAddr s.cfg (input s) <;> rfl

theorem execDecaddr_eq (s : State) : execDecaddr s = .next (settle .decaddr (ilenTooLong s)
    (decAddr s.cfg (input s) s.arg0.toNat (toaOperand s))
    (fun l => { putOutput s.cfg.obufCap (l ++ [0]) (start s) with olen := toWord l.length }) (start s)) := by
  simp only [execDecaddr, settle, start_cfg, start_arg0, input_start, toaOperand_start, ilenTooLong_start]
  cases decAddr s.cfg (input s) s.arg0.toNat (toaOperand s) <;> rfl

theorem execEncts_eq (s : State) : execEncts s = .next (settle .encts (ilenTooLong s) (encTs (input s))
    (fun l => { putOutput s.cfg.obufCap l (start s) with olen := toWord l.length }) (start s)) := by
  simp only [execEncts, settle, start_cfg, input_start, ilenTooLong_start]
  cases encTs (input s) <;> rfl

theorem execDects_eq (s : State) : execDects s = .next (settle .dects (ilenTooLong s) (.ok (decTs s.cfg (input s)))
    (fun l => { putOutput s.cfg.obufCap (l ++ [0]) (start s) with olen := toWord l.length }) (start s)) := rfl

theorem execEncgsm_eq (s : State) : execEncgsm s = .next (settle .encgsm (ilenTooLong s || flagsReserved s)
    (encGsm s.cfg (input s) s.msgG s.arg0.toNat s.arg1.toNat (scaFlag s) (srrFlag s))
    (fun l => { putOutput s.cfg.pduCap l (start s) with olen := toWord l.length }) (start s)) := by
  simp only [execEncgsm, settle, start_cfg, start_arg0, start_arg1, start_msgG, input_start, scaFlag_start,
    srrFlag_start, ilenTooLong_start, flagsReserved_start]
  cases encGsm s.cfg (input s) s.msgG s.arg0.toNat s.arg1.toNat (scaFlag s) (srrFlag s) <;> rfl

theorem execDecgsm_eq (s : State) : execDecgsm s = .next (settle .decgsm (ilenTooLong s || flagsReserved s)
    (decGsm s.cfg (input s) (scaFlag s))
    (fun w => { start s with msgG := gsmRecord s.cfg s.free w, free := s.free + 1 }) (start s)) := by
  simp only [execDecgsm, settle, start_cfg, start_free, input_start, scaFlag_start, ilenTooLong_start,
    flagsReserved_start]
  cases decGsm s.cfg (input s) (scaFlag s) <;> rfl

theorem settle_keeps {α : Type} {op : Running} {refused : Bool} {r : Except Kind α} {out : α → State} {s t : State}
    (ht : Keeps s t) (ho : ∀ a, Keeps s (out a)) : Keeps s (settle op refused r out t) := by
  unfold settle
  split
  · exact .raise ht
  · split
    · exact .raise ht
    · exact .finish (ho _)

/-- An operation of this shape that puts out octets and scalar results. -/
theorem GoesOn.of_output {α : Type} {op : Running} {refused : Bool} {r : Except Kind α} {cap : Nat}
    {l : α → List Byte} {olen res0 res1 : α → Word} {s : State} {o : Outcome State Fault Refusal}
    (h : o = .next (settle op refused r (fun a =>
      { putOutput cap (l a) (start s) with olen := olen a, res0 := res0 a, res1 := res1 a }) (start s))) :
    GoesOn s o :=
  ⟨_, h, settle_keeps (.start (.refl s)) fun _ => .results (.putOutput (.start (.refl s)))⟩

theorem execPack7_keeps (s : State) : GoesOn s (execPack7 s) := .of_output (execPack7_eq s)
theorem execUnpack7_keeps (s : State) : GoesOn s (execUnpack7 s) := .of_output (execUnpack7_eq s)
theorem execEncaddr_keeps (s : State) : GoesOn s (execEncaddr s) := .of_output (execEncaddr_eq s)
theorem execDecaddr_keeps (s : State) : GoesOn s (execDecaddr s) := .of_output (execDecaddr_eq s)
theorem execEncts_keeps (s : State) : GoesOn s (execEncts s) := .of_output (execEncts_eq s)
theorem execDects_keeps (s : State) : GoesOn s (execDects s) := .of_output (execDects_eq s)
theorem execEncgsm_keeps (s : State) : GoesOn s (execEncgsm s) := .of_output (execEncgsm_eq s)

theorem execDecgsm_keeps (s : State) : GoesOn s (execDecgsm s) :=
  ⟨_, execDecgsm_eq s, settle_keeps (.start (.refl s)) fun _ => .gsmRecord (.start (.refl s))⟩

/-! ### The CDMA operations -/

/-- The stream ENCCDMA writes stays within CDMA_PDU_CAP, and so within OBUF (R300). -/
theorem emitRecord_good {s : State} (h : s.Inv) :
    (emitRecord s.msgC (openW s.cfg.cdmaPduCap s.obuf)).stream.Good s.cfg.obufCap :=
  (emitRecord_later _ _).good _ (good_openW (Config.wf_bounds h.params).2.2.1 h.obufForm h.obufBound)

theorem execEnccdma_keeps (s : State) : GoesOn s (execEnccdma s) := by
  refine ⟨_, rfl, ?_⟩
  have hg : (start s).Inv → _ := emitRecord_good
  split
  · exact .raise (.start (.refl s))
  · split
    next w h =>
      rw [h] at hg
      exact .raise (.putW (.start (.refl s)) hg)
    next w h =>
      rw [h] at hg
      split
      · exact .raise (.putW (.start (.refl s)) hg)
      · exact .finish (.results (.putW (w := { w with wc := { w.wc with isOpen := false } }) (.start (.refl s))
          fun hi => ⟨(hg hi).pos, (hg hi).cap, (hg hi).form, (hg hi).bound⟩))

theorem deccdma_refused_iff {s : State} : (ilenTooLong (start s) || decide ((start s).ilen = 0)) = true ↔
    ilenTooLong s = true ∨ s.ilen = 0 := by
  rw [Bool.or_eq_true, decide_eq_true_iff]
  rfl

/-- DECCDMA refuses its operands (R91, R240). -/
theorem execDeccdma_refused {s : State} (h : ilenTooLong s = true ∨ s.ilen = 0) :
    execDeccdma s = .next (raise .deccdma .fault (start s)) :=
  congrArg Outcome.next (if_pos (deccdma_refused_iff.2 h))

/-- DECCDMA refuses the format octet, with the cursor as it was opened (R240, log 22). -/
theorem execDeccdma_error {s : State} (h : ¬ (ilenTooLong s = true ∨ s.ilen = 0)) {k : Kind}
    (hd : decCdma s.cfg s.ibuf s.ilen.toNat = .error k) :
    execDeccdma s = .next (raise .deccdma k { start s with rc := openR s.ilen.toNat }) := by
  refine congrArg Outcome.next ((if_neg (mt deccdma_refused_iff.1 h)).trans ?_)
  rw [show decCdma (start s).cfg (start s).ibuf (start s).ilen.toNat = .error k from hd]
  rfl

/-- DECCDMA decodes the parameters to the end of the buffer (R241, R272). -/
theorem execDeccdma_ok {s : State} (h : ¬ (ilenTooLong s = true ∨ s.ilen = 0)) {x : DecodeCtx}
    (hd : decCdma s.cfg s.ibuf s.ilen.toNat = .ok x) :
    execDeccdma s = .next (finish .ok
      { start s with msgC := x.m, diag := x.diag, rc := { x.rc with isOpen := false } }) := by
  refine congrArg Outcome.next ((if_neg (mt deccdma_refused_iff.1 h)).trans ?_)
  rw [show decCdma (start s).cfg (start s).ibuf (start s).ilen.toNat = .ok x from hd]

/-- After its format octet DECCDMA leaves the cursor within the octets given, and DIAG with the decoder's bits alone. -/
theorem decCdma_ok {c : Config} {ib : Memory} {n : Nat} {x : DecodeCtx} (hn : n ≠ 0) (h : decCdma c ib n = .ok x) :
    x.rc.cap = n ∧ x.rc.pos ≤ 8 * x.rc.cap ∧ x.diag.toNat < 16 := by
  unfold decCdma at h
  split at h
  · cases h
  · cases h
    have hp : (openR n).pos ≤ 8 * (openR n).cap := by simp; omega
    obtain ⟨hcap, -, hpos⟩ := paramLoop_rc c ib n ⟨openR n, 0, _, {}, 0⟩ hp
    exact ⟨hcap, hpos, paramLoop_diag_lt (n := 4) le_rfl n (by simp)⟩

theorem execDeccdma_keeps (s : State) : GoesOn s (execDeccdma s) := by
  by_cases hr : ilenTooLong s = true ∨ s.ilen = 0
  · exact ⟨_, execDeccdma_refused hr, .raise (.start (.refl s))⟩
  · obtain ⟨hlen, hne⟩ : s.ilen.toNat ≤ s.cfg.ibufCap ∧ s.ilen.toNat ≠ 0 := by
      simpa [ilenTooLong_eq_false, BitVec.toNat_eq] using hr
    cases hd : decCdma s.cfg s.ibuf s.ilen.toNat with
    | error k => exact ⟨_, execDeccdma_error hr hd, .raise (.rc (.start (.refl s)) fun _ => ⟨hlen, by simp; omega⟩)⟩
    | ok x =>
      obtain ⟨hcap, hpos, hdiag⟩ := decCdma_ok hne hd
      exact ⟨_, execDeccdma_ok hr hd,
        .finish (.decoded (.start (.refl s)) (fun _ => ⟨hcap.trans_le hlen, hpos⟩) fun _ => by omega)⟩

/-! ### The wire-format elements -/

theorem Keeps.putDecode {s : State} {x : DecodeCtx}
    (hc : s.Inv → x.rc.cap ≤ s.cfg.ibufCap ∧ x.rc.pos ≤ 8 * x.rc.cap) (hd : s.Inv → x.diag.toNat < 32) :
    Keeps s (s.putDecode x) := .decoded (.refl s) hc hd

theorem decodeParamBody_keeps (id len : Nat) (s : State) :
    Keeps s (s.putDecode (decodeParamBody s.cfg s.ibuf id len s.decodeCtx)) := by
  refine .putDecode (fun hi => ?_) (fun hi => decodeParamBody_diag_lt (n := 5) (by decide) _ _ hi.diagBits)
  rw [decodeParamBody_rc]
  exact ⟨hi.rcCap, Nat.mul_le_mul_left 8 (Nat.min_le_right _ _)⟩

theorem decodeSub_keeps (sid len : Nat) (s : State) :
    Keeps s (s.putDecode (decodeSub s.cfg s.ibuf sid len s.decodeCtx)) := by
  refine .putDecode (fun hi => ?_) (fun hi => decodeSub_diag_lt (n := 5) (by decide) _ _ hi.diagBits)
  rw [decodeSub_rc]
  exact ⟨hi.rcCap, Nat.mul_le_mul_left 8 (Nat.min_le_right _ _)⟩

theorem stopOperation_keeps {s t : State} {k : Kind} (h : Keeps s t) : Keeps s (stopOperation k t) :=
  .results (.raise h)

theorem encodeStep_keeps {f : WStream → Wr} {s : State} (hf : ∀ w : WStream, w.Later (f w).stream) :
    Keeps s (encodeStep f s) := by
  have h := hf s.wstream
  unfold encodeStep
  split
  next w he =>
    rw [he] at h
    exact stopOperation_keeps (.writes (.refl s) h)
  next w he =>
    rw [he] at h
    exact .writes (.refl s) h

theorem paramElement_keeps (id : Nat) (len : Byte) (s : State) : Keeps s (paramElement id len s) := by
  unfold paramElement
  split
  · exact encodeStep_keeps (encodeParam_later _ _)
  · exact decodeParamBody_keeps _ _ s

theorem subElement_keeps (sid : Nat) (len : Byte) (s : State) : Keeps s (subElement sid len s) := by
  unfold subElement
  split
  · exact encodeStep_keeps (encodeSub_later _ _)
  · exact decodeSub_keeps _ _ s

theorem unimplementedElement_keeps (sid : Nat) (len : Byte) (s : State) : Keeps s (unimplementedElement sid len s) := by
  unfold unimplementedElement
  split
  · split
    · exact stopOperation_keeps (.refl s)
    · exact .refl s
  · exact decodeSub_keeps _ _ s

theorem unknownElement_keeps {decode : DecodeCtx → DecodeCtx} {s : State}
    (h : Keeps s (s.putDecode (decode s.decodeCtx))) : Keeps s (unknownElement decode s) := by
  unfold unknownElement
  split
  · exact .refl s
  · exact h

theorem formatElement_keeps (v : Byte) (s : State) : Keeps s (formatElement v s) := by
  unfold formatElement
  split
  · split
    · exact stopOperation_keeps (.refl s)
    · exact .writes (.refl s) (wrF_later v (.refl _))
  · split
    · exact stopOperation_keeps (.refl s)
    · exact .results (.refl s)

theorem encodingElement_keeps (tag : BitVec 5) (s : State) : Keeps s (encodingElement tag s) := by
  unfold encodingElement
  split
  · split
    · exact stopOperation_keeps (.refl s)
    · exact .writes (.refl s) (wrUserData_later _ _)
  · split
    · exact .diag (.refl s) fun hi => or_toNat_lt (n := 5) hi.diagBits (by decide)
    next u c h =>
      obtain ⟨hcap, hpos⟩ := (Rd.Alike.userDataRest (.refl s.rc.cap s.ibuf) s.cfg tag).within _ _ _ rfl h
      exact .results (.rc (.refl s) fun hi => ⟨hcap.trans_le hi.rcCap, hcap ▸ hpos hi.rcPos⟩)

theorem textStep_keeps (f : TextWork → Except Kind TextWork) (s : State) : Keeps s (textStep f s) := by
  unfold textStep
  split
  · exact .results (.raise (.refl s))
  · exact .results (.refl s)

theorem gsmStep_keeps (f : GsmWork → Except Kind GsmWork) (s : State) : Keeps s (gsmStep f s) := by
  unfold gsmStep
  split
  · exact .results (.raise (.refl s))
  · exact .results (.refl s)

/-! ### Every instruction -/

/-- Every instruction goes on to a next state that keeps what `Keeps` lists: one case per shape of meaning. -/
theorem exec_keeps (i : Instr) (s : State) : GoesOn s (exec i s) := by
  cases i with
  | rcinit => exact execRcinit_keeps s
  | wcinit => exact execWcinit_keeps s
  | rdbits => exact execRdbits_keeps s
  | wrbits => exact execWrbits_keeps s
  | skipb => exact execSkipb_keeps s
  | flush => exact execFlush_keeps s
  | rcseek => exact execRcseek_keeps s
  | wcpatch => exact execWcpatch_keeps s
  | pack7 => exact execPack7_keeps s
  | unpack7 => exact execUnpack7_keeps s
  | encaddr => exact execEncaddr_keeps s
  | decaddr => exact execDecaddr_keeps s
  | encts => exact execEncts_keeps s
  | dects => exact execDects_keeps s
  | encgsm => exact execEncgsm_keeps s
  | decgsm => exact execDecgsm_keeps s
  | enccdma => exact execEnccdma_keeps s
  | deccdma => exact execDeccdma_keeps s
  | illegal op => exact ⟨_, rfl, .finish (.start (.refl s))⟩
  | toaInternational => exact ⟨_, rfl, .results (.refl s)⟩
  | mtiDeliver | mtiSubmit | mti10 | mti11 | vpfNone | vpfRelative | vpfEnhanced | vpfAbsolute | udhi | srr
  | dcsG07bit | dcsG08bit | dcsG0Ucs2 | dcsG0Reserved | dcsGF7bit | dcsGF8bit | dcsG01 | dcsG10 | dcsG1100 | dcsG1101
  | dcsG1110 => exact ⟨_, rfl, gsmStep_keeps _ s⟩
  | fmtPointToPoint | fmtBroadcast | fmtAcknowledge | fmtUndefined => exact ⟨_, rfl, formatElement_keeps _ s⟩
  | pTeleservice | pServcat | pOrigaddr | pOrigsub | pDestaddr | pDestsub | pBearerreply | pCause | pBearerdata =>
    exact ⟨_, rfl, paramElement_keeps _ _ s⟩
  | pUnknown => exact ⟨_, rfl, unknownElement_keeps (decodeParamBody_keeps _ _ s)⟩
  | sMsgid | sUserdata | sRespcode | sMcts | sVpabs | sVprel | sDdtabs | sDdtrel | sPriority | sPrivacy | sReplyopt
  | sMsgcount | sAlert | sLanguage | sCallback | sDispmode | sDeposit | sMsgstatus | sTpfail =>
    exact ⟨_, rfl, subElement_keeps _ _ s⟩
  | sMultienc | sScpdata | sScpresult | sEvmn | sEvmnack => exact ⟨_, rfl, unimplementedElement_keeps _ _ s⟩
  | sUnknown => exact ⟨_, rfl, unknownElement_keeps (decodeSub_keeps _ _ s)⟩
  | udOctet | udEpm | udAscii7 | udIa5 | udUnicode | udShiftjis | udKorean | udLatinhebrew | udLatin | udGsm7 | udGsmdcs
  | udUndefined => exact ⟨_, rfl, encodingElement_keeps _ s⟩
  | esc | esc0C | esc5E | esc7B | esc7D | esc5C | esc5B | esc7E | esc5D | esc7C => exact ⟨_, rfl, textStep_keeps _ s⟩

theorem keeps_of_exec {i : Instr} {s t : State} (h : exec i s = .next t) : Keeps s t := by
  obtain ⟨u, hu, hk⟩ := exec_keeps i s
  obtain rfl : u = t := by simpa [hu] using h
  exact hk

theorem inv_withoutSel {s : State} (h : s.Inv) : ({ s with sel := none } : State).Inv := { h with }

/-- A step from a good state leaves a good state, whichever way it takes its instruction. -/
theorem inv_step {s t : State} (hi : s.Inv) (h : step s = .next t) : t.Inv := by
  unfold step at h
  split at h
  · split at h
    · exact (keeps_of_exec h).inv hi
    · cases h
      exact inv_finish .fault (inv_start hi)
  · split at h
    · exact (keeps_of_exec h).inv (inv_withoutSel hi)
    · cases h

/-- Settles O3: `Keeps` carries the invariant through every instruction, and an illegal command word writes
STATUS and DIAG only. -/
theorem stepKeepsInvariant : Obligations.StepKeepsInvariant := fun _ _ hi h => inv_step hi h

/-- Settles O10: the fields of `Keeps`, read off for the instruction at hand. -/
theorem neverWritten : Obligations.NeverWritten := by
  intro i s t h
  have hk := keeps_of_exec h
  exact ⟨hk.ibuf, hk.cmd, hk.ilen, hk.arg0, hk.arg1, hk.arg2, hk.g7, hk.cfg, hk.sel⟩

end Sys2Proof.Machine
end

section
/-! PROOFS. Reset, and what `step` adds around `exec`. -/

namespace Sys2Proof.Machine

/-- Every register of R21 is 0 at reset. -/
theorem hostReadG_reset (i : Fin 8) : hostReadG i State.reset = 0 := by fin_cases i <;> rfl

/-- Settles O1: each value stands in `State.reset` as R39 gives it. -/
theorem resetValues : Obligations.ResetValues :=
  ⟨rfl, rfl, rfl, hostReadG_reset, rfl, rfl, rfl, rfl, rfl⟩

theorem step_of_cmd {s : State} {i : Instr} (hs : s.sel = none) (hd : decodeAt .cmd s.cmd = .ok i) :
    step s = exec i s := by
  simp only [step, hs, hd]

theorem step_of_sel {s : State} {i : Instr} {f : Format} {w : Word} (hs : s.sel = some (f, w))
    (hd : decodeAt f w = .ok i) : step s = exec i { s with sel := none } := by
  simp only [step, hs, hd]

theorem step_of_cmd_error {s : State} {e : DecodeError} (hs : s.sel = none) (hd : decodeAt .cmd s.cmd = .error e) :
    step s = .next (illegalCommand s) := by
  simp only [step, hs, hd]

theorem withFetchWord_cmd (s : State) (w : Word) : s.withFetchWord 32 w.toNat = { s with cmd := w, sel := none } := by
  simp [State.withFetchWord]

/-- CMD[31:8] not 0 is no operation, whatever CMD[7:0] is (R22, R92). -/
theorem decodeAt_cmd_reserved {w : Word} (h : 256 ≤ w.toNat) : decodeAt .cmd w = .error .reservedBits := by
  have hlt : w.toNat < 2 ^ 32 := w.isLt
  have hne : w.extractLsb' 8 24 ≠ 0#24 := by
    rw [Ne, BitVec.toNat_eq, BitVec.extractLsb'_toNat, Nat.shiftRight_eq_div_pow, BitVec.toNat_ofNat]
    omega
  exact (if_neg (Nat.not_le.2 hlt)).trans (if_neg hne)

/-- Settles O4: `step` by the branch it takes. -/
theorem stepRunsDecoded : Obligations.StepRunsDecoded := by
  intro s i
  refine ⟨step_of_cmd, fun f w => step_of_sel, fun w hd => ?_, fun hs hc => ?_⟩
  · rw [withFetchWord_cmd]
    exact step_of_cmd rfl hd
  · exact step_of_cmd_error hs (decodeAt_cmd_reserved hc)

end Sys2Proof.Machine
end

section
/-! PROOFS. How the shared codecs of text, addresses, timestamps and GSM PDUs can end: with an error of R350, which is
never OK, or with an answer that fits the capacity given. -/

namespace Sys2Proof.Machine

/-- `r` is an error other than OK, or an answer of which `P` holds. -/
def EndsWith {α : Type} (P : α → Prop) : Except Kind α → Prop
  | .error k => k ≠ .ok
  | .ok a => P a

section
variable {α β : Type} {P : α → Prop} {Q : β → Prop}

theorem EndsWith.bind {r : Except Kind α} {f : α → Except Kind β} (h : EndsWith P r)
    (hf : ∀ a, P a → EndsWith Q (f a)) : EndsWith Q (r >>= f) := by
  cases r with
  | error k => exact h
  | ok a => exact hf a h

theorem EndsWith.of_ok {r : Except Kind α} {a : α} (h : EndsWith P r) (he : r = .ok a) : P a := by
  rwa [he] at h

theorem EndsWith.of_error {r : Except Kind α} {k : Kind} (h : EndsWith P r) (he : r = .error k) : k ≠ .ok := by
  rwa [he] at h

theorem EndsWith.ite {p : Prop} [Decidable p] {r r' : Except Kind α} (h : p → EndsWith P r)
    (h' : ¬ p → EndsWith P r') : EndsWith P (if p then r else r') := by
  split
  · exact h ‹_›
  · exact h' ‹_›

/-- A test that refuses, before the rest. -/
theorem EndsWith.guard {p : Prop} [Decidable p] {k : Kind} {r : Except Kind α} (hk : k ≠ .ok)
    (h : ¬ p → EndsWith P r) : EndsWith P (if p then .error k else r) :=
  .ite (fun _ => hk) h

end

/-! ### The packer -/

theorem pack7_ends (c : Config) (text : List Byte) (cap : Nat) :
    EndsWith (fun p => p.1.length ≤ cap) (pack7 c text cap) := by
  unfold pack7
  rw [packUnits_eq _ _ _ _ (by simp)]
  by_cases h : 8 * cap < 7 * ([] ++ text.flatMap (charUnits c)).length
  · rw [if_pos h]
    exact Kind.noConfusion
  · rw [if_neg h]
    exact (packSeptets_length _).trans_le (ceil8_le _ _ (by omega))

/-- The text so far is within its capacity. -/
def TextWork.Within (cap : Nat) (t : TextWork) : Prop := t.cap = cap ∧ t.out.length ≤ cap

theorem putChar_ends (b : Byte) {cap : Nat} {t : TextWork} (h : t.cap = cap) :
    EndsWith (TextWork.Within cap) (putChar b t) := by
  rw [putChar_eq]
  exact .guard (by decide) fun hlt => ⟨h, by simp; omega⟩

theorem takeSeptet_ends (c : Config) (u : Septet) {cap : Nat} {t : TextWork} (h : t.Within cap) :
    EndsWith (TextWork.Within cap) (takeSeptet c t u) :=
  .ite (fun _ => putChar_ends _ h.1) fun _ => .ite (fun _ => h) fun _ => putChar_ends _ h.1

theorem takeSeptets_ends (c : Config) (us : List Septet) {cap : Nat} {t : TextWork} (h : t.Within cap) :
    EndsWith (TextWork.Within cap) (takeSeptets c us t) := by
  induction us generalizing t with
  | nil => exact h
  | cons u us ih =>
    have hu := takeSeptet_ends c u h
    unfold takeSeptets
    split
    next he => exact hu.of_error he
    next he => exact ih (hu.of_ok he)

theorem endText_ends (c : Config) {cap : Nat} {t : TextWork} (h : t.Within cap) :
    EndsWith (fun l => l.length ≤ cap) (endText c t) := by
  refine .ite (fun _ => ?_) fun _ => h.2
  have hp := putChar_ends c.npc8 h.1
  split
  next he => exact hp.of_error he
  next he => exact (hp.of_ok he).2

theorem unpack7_ends (c : Config) (l : List Byte) (count cap : Nat) :
    EndsWith (fun o => o.length ≤ cap) (unpack7 c l count cap) := by
  refine .guard (by decide) fun _ => ?_
  have ht := takeSeptets_ends c ((List.range count).map (septetAt l)) (t := { cap := cap }) ⟨rfl, Nat.zero_le _⟩
  split
  next he => exact ht.of_error he
  next he => exact endText_ends c (ht.of_ok he)

/-! ### Addresses and timestamps -/

theorem encAddr_ends (c : Config) (l : List Byte) :
    EndsWith (fun p => p.1.length ≤ (c.addrDigitsMax + 1) / 2) (encAddr c l) := by
  rw [encAddr_eq]
  refine .ite (fun h => ?_) fun _ => Kind.noConfusion
  show (semiOctets (addrDigits l)).length ≤ _
  rw [semiOctets_length]
  have := h.1
  omega

theorem decAddr_ends (c : Config) (l : List Byte) (cnt : Nat) (toa : Byte) :
    EndsWith (fun o => o.length + 1 ≤ c.addrStrCap) (decAddr c l cnt toa) := by
  refine .guard (by decide) fun _ => .guard (by decide) fun hcap => ?_
  split
  · exact Kind.noConfusion
  next ds hds =>
    have hlen : ds.length = cnt := (mapM_length _ _ hds).trans (List.length_range)
    show (_ ++ ds).length + 1 ≤ _
    rw [List.length_append, hlen]
    omega

theorem encTs_ends (l : List Byte) : EndsWith (fun o => o.length = 7) (encTs l) := by
  refine .guard (by decide) fun _ => .guard (by decide) fun _ => .guard (by decide) fun _ => ?_
  split
  · exact Kind.noConfusion
  next o ho => exact .guard (by decide) fun _ => by simp [EndsWith, mapM_length _ _ ho, tsPositions]

/-- A timestamp string with its NUL fits OBUF (R9, R185). -/
theorem decTs_length {c : Config} (hc : c.wf = true) (l : List Byte) : (decTs c l).length + 1 ≤ c.tsStrCap := by
  obtain ⟨-, -, -, -, -, hts, -, hun⟩ := Config.wf_bounds hc
  unfold decTs
  split
  · exact hun
  · split
    · exact hun
    · simpa [tsField] using hts

/-! ### ENCGSM -/

theorem emit_ends (c : Config) (b : Byte) (o : List Byte) : EndsWith (fun p => p.length ≤ c.pduCap) (emit c b o) :=
  .guard (by decide) fun h => by simp [EndsWith]; omega

theorem emitAll_ends (c : Config) (l : List Byte) {o : List Byte} (h : o.length ≤ c.pduCap) :
    EndsWith (fun p => p.length ≤ c.pduCap) (emitAll c l o) := by
  rw [emitAll_eq c l o h]
  exact .guard (by decide) fun hlt => by simp [EndsWith]; omega

theorem gsmPayload_ends (c : Config) (enc : Nat) (text o : List Byte) :
    EndsWith (fun p => p.length ≤ c.pduCap) (gsmPayload c enc text o) := by
  refine .bind (emit_ends c _ o) fun p hp => .ite (fun _ => ?_) fun _ => .guard (by decide) fun _ => emitAll_ends c _ hp
  exact .bind (pack7_ends c text c.udOctetsMax) fun q _ => emitAll_ends c _ (by simpa using hp)

theorem encGsm_ends (c : Config) (text : List Byte) (m : GsmMsg) (kind enc : Nat) (sca srr : Bool) :
    EndsWith (fun p => p.length ≤ c.pduCap) (encGsm c text m kind enc sca srr) := by
  refine .guard (by decide) fun _ => .guard (by decide) fun _ => .guard (by decide) fun _ =>
    .guard (by decide) fun _ => ?_
  refine .bind (emitAll_ends c _ (Nat.zero_le _)) fun _ h1 => .bind (encAddr_ends c _) fun _ _ => ?_
  refine .bind (emitAll_ends c _ h1) fun _ h2 => .bind (P := fun _ => True) ?_ fun _ _ => ?_
  · refine .ite (fun _ => trivial) fun _ => ?_
    have ht := encTs_ends (recordString m.ts m.tsLen)
    cases h : encTs (recordString m.ts m.tsLen) with
    | ok o => exact trivial
    | error k => exact ht.of_error h
  · exact .bind (emitAll_ends c _ h2) fun _ _ => gsmPayload_ends c enc text _

end Sys2Proof.Machine
end

section
/-! PROOFS. The CDMA codec reads nothing but its operands: the decoder no octet of IBUF at ILEN or above, the encoder no
octet of OBUF. -/

namespace Sys2Proof.Machine

/-! ### The decoder -/

section
variable {n : Nat} {ib ib' : Memory} (h : SameBelow n ib ib') (c : Config)
include h

theorem decodeSub_same (sid slen : Nat) {x : DecodeCtx} (hc : x.rc.cap = n) :
    decodeSub c ib sid slen x = decodeSub c ib' sid slen x := by
  unfold decodeSub
  rw [(Rd.Alike.subBody h c sid x.b).same x.rc hc]

/-- The header of a TLV lies below `n`, so it is the same in both memories. -/
theorem header_same {p : Nat} (hp : p % 8 = 0) (hn : p / 8 + 2 ≤ n) :
    readBits ib p 8 = readBits ib' p 8 ∧ readBits ib (p + 8) 8 = readBits ib' (p + 8) 8 :=
  ⟨readBits_sameBelow h (by omega), readBits_sameBelow h (by omega)⟩

theorem subLoop_same (fuel : Nat) {x : DecodeCtx} (hc : x.rc.cap = n) (hb : x.bEnd ≤ n) (hp : x.rc.pos % 8 = 0) :
    subLoop c ib fuel x = subLoop c ib' fuel x := by
  induction fuel generalizing x with
  | zero => rfl
  | succ fuel ih =>
    rw [subLoop, subLoop]
    split
    · rfl
    · split
      · rfl
      · obtain ⟨h1, h2⟩ := header_same h hp (by omega)
        dsimp only
        rw [h1, h2, decodeSub_same h c _ _ (by exact hc)]
        refine ih ?_ ?_ ?_
        · rw [decodeSub_rc]; exact hc
        · rw [decodeSub_bEnd]; exact hb
        · rw [decodeSub_rc]; exact Nat.mul_mod_right 8 _

theorem decodeBearer_same (len : Nat) {x : DecodeCtx} (hc : x.rc.cap = n) (hp : x.rc.pos % 8 = 0) :
    decodeBearer c ib len x = decodeBearer c ib' len x := by
  unfold decodeBearer
  rw [subLoop_same h c _ (by exact hc) (hc ▸ Nat.min_le_right _ _) (by exact hp)]

theorem decodeParamBody_same (id len : Nat) {x : DecodeCtx} (hc : x.rc.cap = n) (hp : x.rc.pos % 8 = 0) :
    decodeParamBody c ib id len x = decodeParamBody c ib' id len x := by
  unfold decodeParamBody
  rw [decodeBearer_same h c len hc hp, (Rd.Alike.paramBody h c id x.m).same x.rc hc]

theorem paramLoop_same (fuel : Nat) {x : DecodeCtx} (hc : x.rc.cap = n) (hp : x.rc.pos % 8 = 0) :
    paramLoop c ib fuel x = paramLoop c ib' fuel x := by
  induction fuel generalizing x with
  | zero => rfl
  | succ fuel ih =>
    rw [paramLoop, paramLoop]
    split
    · rfl
    · split
      · rfl
      · obtain ⟨h1, h2⟩ := header_same h hp (by omega)
        dsimp only
        rw [h1, h2, decodeParamBody_same h c _ _ (by exact hc) (by simp only; omega)]
        refine ih ?_ ?_
        · rw [decodeParamBody_rc]; exact hc
        · rw [decodeParamBody_rc]; exact Nat.mul_mod_right 8 _

/-- DECCDMA reads the octets below ILEN and no others (R24, R142). -/
theorem decCdma_same (hn : n ≠ 0) : decCdma c ib n = decCdma c ib' n := by
  unfold decCdma
  rw [readBits_sameBelow h (by omega)]
  split
  · rfl
  · rw [paramLoop_same h c n (by rfl) (Nat.mod_self 8)]

end

/-! ### The encoder -/

section
variable {n : Nat}

theorem SameBelow.memWrite {m m' : Memory} (h : SameBelow n m m') (x : Nat) (v : Byte) :
    SameBelow n (memWrite m x v) (memWrite m' x v) := fun a ha => by
  rw [memRead_memWrite, memRead_memWrite, h a ha]

theorem SameBelow.setStreamBit {m m' : Memory} (h : SameBelow n m m') (p : Nat) (b : Bool) :
    SameBelow n (setStreamBit m p b) (setStreamBit m' p b) := fun a ha => by
  by_cases hp : a = p / 8
  · subst hp
    simp only [Machine.setStreamBit, memRead_memWrite_same, h _ ha]
  · rw [memRead_setStreamBit _ _ _ _ hp, memRead_setStreamBit _ _ _ _ hp, h a ha]

theorem SameBelow.putBits {m m' : Memory} (h : SameBelow n m m') (p v k : Nat) :
    SameBelow n (putBits m p v k) (putBits m' p v k) := by
  induction k generalizing v with
  | zero => exact h
  | succ k ih => exact (ih _).setStreamBit _ _

/-- The whole of a run from index 0 is the same, whatever stood there. -/
theorem sameBelow_memSetPrefix (m m' : Memory) (l : List Byte) :
    SameBelow l.length (memSetPrefix m l) (memSetPrefix m' l) := fun a ha => by
  rw [memRead_memSetPrefix, memRead_memSetPrefix, if_pos ha, if_pos ha]

/-- The streams have the same cursor and the same octets below `n`. -/
structure WStream.Alike (n : Nat) (w w' : WStream) : Prop where
  wc : w.wc = w'.wc
  buf : SameBelow n w.buf w'.buf

variable {w w' : WStream}

theorem alike_wr (h : w.Alike n w') (v k : Nat) : (wr v k w).Alike n (wr v k w') := by
  unfold wr
  rw [← h.wc]
  split
  · exact ⟨rfl, h.buf⟩
  · exact ⟨rfl, h.buf.putBits _ _ _⟩

theorem alike_flushBits (h : w.Alike n w') : (flushBits w).Alike n (flushBits w') := by
  unfold flushBits
  rw [← h.wc]
  exact ⟨rfl, h.buf.putBits _ _ _⟩

theorem alike_patch (h : w.Alike n w') (b v : Nat) : (patch b v w).Alike n (patch b v w') :=
  ⟨h.wc, h.buf.memWrite _ _⟩

theorem alike_ite {p : Prop} [Decidable p] {v v' : WStream} (h : w.Alike n w') (h' : v.Alike n v') :
    WStream.Alike n (if p then w else v) (if p then w' else v') := by
  split
  · exact h
  · exact h'

theorem alike_wrF (h : w.Alike n w') {k : Nat} (v : BitVec k) : (wrF v w).Alike n (wrF v w') := alike_wr h _ _

theorem alike_wrUnits (h : w.Alike n w') {k : Nat} (b : Nat) (us : List (BitVec k)) (count : Nat) :
    (wrUnits b us count w).Alike n (wrUnits b us count w') := by
  unfold wrUnits
  generalize List.range count = l
  induction l generalizing w w' with
  | nil => exact h
  | cons i l ih => exact ih (alike_wr h _ _)

theorem alike_wrAddress (h : w.Alike n w') (a : CdmaAddress) : (wrAddress a w).Alike n (wrAddress a w') := by
  have h2 := alike_wrF (alike_wrF h a.digitMode) a.numberMode
  have h3 := alike_ite (p := a.digitMode = 1) (alike_wrF h2 a.numberType) h2
  exact alike_wrUnits (alike_wrF (alike_ite (alike_wrF h3 a.numberPlan) h3) _) _ _ _

theorem alike_wrSubaddress (h : w.Alike n w') (a : CdmaSubaddress) :
    (wrSubaddress a w).Alike n (wrSubaddress a w') :=
  alike_wr (alike_wrUnits (alike_wrF (alike_wrF (alike_wrF h _) _) _) _ _ _) _ _

theorem alike_wrCause (h : w.Alike n w') (a : CdmaCause) : (wrCause a w).Alike n (wrCause a w') := by
  have h2 := alike_wrF (alike_wrF h a.replySeq) a.errorClass
  exact alike_ite (alike_wrF h2 _) h2

theorem alike_wrDate (h : w.Alike n w') (d : CdmaDate) : (wrDate d w).Alike n (wrDate d w') :=
  alike_wrF (alike_wrF (alike_wrF (alike_wrF (alike_wrF (alike_wrF h _) _) _) _) _) _

theorem alike_wrCallBack (h : w.Alike n w') (a : CdmaCallBack) : (wrCallBack a w).Alike n (wrCallBack a w') := by
  have h1 := alike_wrF h a.digitMode
  exact alike_wrUnits (alike_wrF (alike_ite (alike_wrF (alike_wrF h1 _) _) h1) _) _ _ _

theorem alike_wrUserData (h : w.Alike n w') (u : CdmaUserData) : (wrUserData u w).Alike n (wrUserData u w') :=
  alike_wrUnits (alike_wrF (alike_wrF h _) _) _ _ _

theorem alike_wrParam (h : w.Alike n w') (id : Nat) (m : CdmaPdu) : (wrParam id m w).Alike n (wrParam id m w') := by
  unfold wrParam
  split
  case h_3 | h_5 => exact alike_wrAddress h _
  case h_4 | h_6 => exact alike_wrSubaddress h _
  case h_8 => exact alike_wrCause h _
  case h_9 => exact h
  all_goals exact alike_wrF h _

theorem alike_wrSub (h : w.Alike n w') (sid : Nat) (b : CdmaBearer) : (wrSub sid b w).Alike n (wrSub sid b w') := by
  unfold wrSub
  split
  case h_1 => exact alike_wrF (alike_wrF (alike_wrF h _) _) _
  case h_2 => exact alike_wrUserData h _
  case h_4 | h_5 | h_7 => exact alike_wrDate h _
  case h_11 => exact alike_wrF (alike_wrF (alike_wrF (alike_wrF h _) _) _) _
  case h_15 => exact alike_wrCallBack h _
  case h_18 => exact alike_wrF (alike_wrF h _) _
  case h_20 => exact h
  all_goals exact alike_wrF h _

/-- Both writes end, or both raise, with streams alike. -/
inductive Wr.Alike (n : Nat) : Wr → Wr → Prop
  | ok {w w' : WStream} (h : w.Alike n w') : Wr.Alike n (.ok w) (.ok w')
  | error {w w' : WStream} (h : w.Alike n w') : Wr.Alike n (.error w) (.error w')

theorem alike_tlvEnd (h : w.Alike n w') (lp : Nat) : Wr.Alike n (tlvEnd lp w) (tlvEnd lp w') := by
  have hf := alike_flushBits h
  unfold tlvEnd
  dsimp only
  rw [← hf.wc]
  split
  · exact .ok hf
  · split
    · exact .error hf
    · exact .ok (alike_patch hf _ _)

theorem alike_tlv (h : w.Alike n w') (id : Nat) {body : WStream → Wr}
    (hb : ∀ {v v' : WStream}, v.Alike n v' → Wr.Alike n (body v) (body v')) :
    Wr.Alike n (tlv id body w) (tlv id body w') := by
  have hi := alike_wr h id 8
  unfold tlv
  rw [← hi.wc]
  have ht := hb (alike_wr hi 0 8)
  unfold tlvHead
  generalize body (wr 0 8 (wr id 8 w)) = r, body (wr 0 8 (wr id 8 w')) = r' at ht
  cases ht with
  | ok hv => exact alike_tlvEnd hv _
  | error hv => exact .error hv

theorem alike_eachId {f : Nat → WStream → Wr}
    (hf : ∀ (i : Nat) {v v' : WStream}, v.Alike n v' → Wr.Alike n (f i v) (f i v')) (l : List Nat)
    (h : w.Alike n w') : Wr.Alike n (eachId f l w) (eachId f l w') := by
  induction l generalizing w w' with
  | nil => exact .ok h
  | cons i l ih =>
    have hi := hf i h
    unfold eachId
    generalize f i w = r, f i w' = r' at hi
    cases hi with
    | ok hv => exact ih hv
    | error hv => exact .error hv

theorem alike_encodeSub (b : CdmaBearer) (sid : Nat) (h : w.Alike n w') :
    Wr.Alike n (encodeSub b sid w) (encodeSub b sid w') := by
  unfold encodeSub
  split
  · exact alike_tlv h sid fun hv => .ok (alike_wrSub hv sid b)
  · exact .ok h

theorem alike_encodeParam (m : CdmaPdu) (id : Nat) (h : w.Alike n w') :
    Wr.Alike n (encodeParam m id w) (encodeParam m id w') := by
  unfold encodeParam
  split
  · split
    · exact alike_tlv h 8 (alike_eachId (fun i _ _ => alike_encodeSub m.bearer i) subIds)
    · exact alike_tlv h id fun hv => .ok (alike_wrParam hv id m)
  · exact .ok h

/-- The emission of a record over two buffers gives the same octets up to the capacity, whatever the buffers held. -/
theorem alike_emitRecord (m : CdmaPdu) (cap : Nat) (buf buf' : Memory) :
    Wr.Alike cap (emitRecord m (openW cap buf)) (emitRecord m (openW cap buf')) := by
  have h : (openW cap buf).Alike cap (openW cap buf') :=
    ⟨rfl, by simpa [openW] using sameBelow_memSetPrefix buf buf' (List.replicate cap 0)⟩
  exact alike_eachId (fun i _ _ => alike_encodeParam m i) _ (alike_wrF h m.format)

end

end Sys2Proof.Machine
end

section
/-! PROOFS. The result of a composite operation is a function of its operands (R20, R273). -/

namespace Sys2Proof.Machine

open Host (Outcome)

/-! ### The operands -/

section
variable {i : Instr} {s s' : State} (h : SameOperands i s s')
include h

theorem SameOperands.cfg : s.cfg = s'.cfg := h.1

theorem SameOperands.free : s.free = s'.free := h.2.1

theorem SameOperands.ilen (hi : i ≠ .enccdma) : s.ilen = s'.ilen := by
  obtain ⟨-, -, hin, -⟩ := h
  exact (hin hi).1

theorem SameOperands.ibuf (hi : i ≠ .enccdma) : SameBelow s.ilen.toNat s.ibuf s'.ibuf := by
  obtain ⟨-, -, hin, -⟩ := h
  exact (hin hi).2

theorem SameOperands.arg0 (hi : i ∈ [Instr.unpack7, .decaddr, .encgsm]) : s.arg0 = s'.arg0 := by
  obtain ⟨-, -, -, h0, -⟩ := h
  exact h0 hi

theorem SameOperands.arg1 (hi : i ∈ [Instr.pack7, .unpack7, .decaddr, .encgsm]) : s.arg1 = s'.arg1 := by
  obtain ⟨-, -, -, -, h1, -⟩ := h
  exact h1 hi

theorem SameOperands.arg2 (hi : i ∈ [Instr.encgsm, .decgsm]) : s.arg2 = s'.arg2 := by
  obtain ⟨-, -, -, -, -, h2, -⟩ := h
  exact h2 hi

theorem SameOperands.msgG (hi : i = .encgsm) : s.msgG = s'.msgG := by
  obtain ⟨-, -, -, -, -, -, hg, -⟩ := h
  exact hg hi

theorem SameOperands.msgC (hi : i = .enccdma) : s.msgC = s'.msgC := by
  obtain ⟨-, -, -, -, -, -, -, hc⟩ := h
  exact hc hi

theorem SameOperands.input (hi : i ≠ .enccdma) : input s = Machine.input s' := input_sameBelow (h.ilen hi) (h.ibuf hi)

theorem SameOperands.ilenTooLong (hi : i ≠ .enccdma) : ilenTooLong s = Machine.ilenTooLong s' := by
  simp only [Machine.ilenTooLong, h.cfg, h.ilen hi]

theorem SameOperands.capTooLarge (hi : i ∈ [Instr.pack7, .unpack7, .decaddr, .encgsm]) :
    capTooLarge s s.arg1 = Machine.capTooLarge s' s'.arg1 := by
  simp only [Machine.capTooLarge, h.cfg, h.arg1 hi]

theorem SameOperands.flags (hi : i ∈ [Instr.encgsm, .decgsm]) :
    flagsReserved s = flagsReserved s' ∧ scaFlag s = scaFlag s' ∧ srrFlag s = srrFlag s' := by
  simp only [flagsReserved, scaFlag, srrFlag, h.arg2 hi, and_self]

end

/-! ### The results -/

/-- The two ends of the operation `i` show the same status and DIAG and, where OK, the same results of `i` (R90). -/
def SameResults (i : Instr) (t t' : State) : Prop :=
  t.status = t'.status ∧ t.diag = t'.diag ∧
  (t.status = 0 → (i = .decgsm → t.msgG = t'.msgG) ∧ (i = .deccdma → t.msgC = t'.msgC) ∧
    (i ≠ .decgsm → i ≠ .deccdma → t.olen = t'.olen ∧
      ∀ k, k < t.olen.toNat → memRead t.obuf k = memRead t'.obuf k) ∧
    (i = .pack7 ∨ i = .encaddr → t.res0 = t'.res0) ∧ (i = .encaddr → t.res1 = t'.res1))

theorem kindCode_eq_zero {k : Kind} : kindCode k = 0 ↔ k = .ok := by cases k <;> decide

/-- After an error nothing but STATUS and DIAG counts (R357). -/
theorem sameResults_raise {i : Instr} {op : Running} {k : Kind} {s s' : State} (hk : k ≠ .ok) (hd : s.diag = s'.diag) :
    SameResults i (raise op k s) (raise op k s') :=
  ⟨rfl, by simpa using hd, fun h0 => absurd (kindCode_eq_zero.1 h0) hk⟩

/-- Outputs of the same octets within the capacity, with the same scalar results. -/
theorem sameResults_output {i : Instr} {s s' : State} {cap cap' n : Nat} {l : List Byte} {a a' b b' : Word}
    (hg : i ≠ .decgsm) (hc : i ≠ .deccdma) (hs : s.cfg = s'.cfg) (hcap : cap = cap') (hn : n ≤ l.length)
    (hl : l.length ≤ min cap s.cfg.obufCap) (ha : i = .pack7 ∨ i = .encaddr → a = a') (hb : i = .encaddr → b = b') :
    SameResults i (finish .ok { putOutput cap l (start s) with olen := toWord n, res0 := a, res1 := b })
      (finish .ok { putOutput cap' l (start s') with olen := toWord n, res0 := a', res1 := b' }) := by
  subst hcap
  refine ⟨rfl, rfl, fun _ => ⟨fun h => absurd h hg, fun h => absurd h hc, fun _ _ => ⟨rfl, fun k hk => ?_⟩, ha, hb⟩⟩
  have hk' : k < l.length := calc
    k < (toWord n).toNat := hk
    _ ≤ n := by simpa [toWord] using Nat.mod_le n _
    _ ≤ l.length := hn
  have ht := (memRead_putOutput cap l (start s)).1 hl k hk'
  have ht' := (memRead_putOutput cap l (start s')).1 (by simpa [hs] using hl) k hk'
  exact ht.trans ht'.symm

/-- The same for an operation whose only scalar result is OLEN. -/
theorem sameResults_octets {i : Instr} {s s' : State} {cap cap' n : Nat} {l : List Byte} {a a' b b' : Word}
    (hi : i ∈ [Instr.unpack7, .decaddr, .encts, .dects, .encgsm]) (hs : s.cfg = s'.cfg) (hcap : cap = cap')
    (hn : n ≤ l.length) (hl : l.length ≤ min cap s.cfg.obufCap) :
    SameResults i (finish .ok { putOutput cap l (start s) with olen := toWord n, res0 := a, res1 := b })
      (finish .ok { putOutput cap' l (start s') with olen := toWord n, res0 := a', res1 := b' }) := by
  have hne : ∀ j ∈ [Instr.decgsm, .deccdma, .pack7, .encaddr], i ≠ j := by
    rintro j hj rfl
    fin_cases hj <;> exact absurd hi (by decide)
  refine sameResults_output (hne _ (by decide)) (hne _ (by decide)) hs hcap hn hl ?_
    (fun h => absurd h (hne _ (by decide)))
  rintro (h | h) <;> exact absurd h (hne _ (by decide))

/-- For DECGSM the result is the record MSG.G. -/
theorem sameResults_msgG {t t' : State} (hs : t.status = t'.status) (hd : t.diag = t'.diag) (hm : t.msgG = t'.msgG) :
    SameResults .decgsm t t' :=
  ⟨hs, hd, fun _ => ⟨fun _ => hm, by simp, by simp, by simp, by simp⟩⟩

/-- For DECCDMA the result is the record MSG.C. -/
theorem sameResults_msgC {t t' : State} (hs : t.status = t'.status) (hd : t.diag = t'.diag) (hm : t.msgC = t'.msgC) :
    SameResults .deccdma t t' :=
  ⟨hs, hd, fun _ => ⟨by simp, fun _ => hm, by simp, by simp, by simp⟩⟩

theorem sameResults_settle {α : Type} {P : α → Prop} {i : Instr} {op : Running} {refused refused' : Bool}
    {r r' : Except Kind α} {out out' : α → State} {s s' : State} (hb : refused = refused') (hr : r = r')
    (hp : EndsWith P r)
    (ho : ∀ a, refused = false → P a → SameResults i (finish .ok (out a)) (finish .ok (out' a))) :
    SameResults i (settle op refused r out (start s)) (settle op refused' r' out' (start s')) := by
  subst hb hr
  unfold settle
  cases refused with
  | true => exact sameResults_raise Kind.noConfusion rfl
  | false =>
    cases r with
    | error k => exact sameResults_raise hp rfl
    | ok a => exact ho a rfl hp

/-! ### The operations -/

/-- Both runs of `i` end, with the same results. -/
def Stateless (i : Instr) (s s' : State) : Prop :=
  ∃ t t', exec i s = .next t ∧ exec i s' = .next t' ∧ SameResults i t t'

section
variable {s s' : State}

theorem pack7_stateless (h : SameOperands .pack7 s s') : Stateless .pack7 s s' := by
  have h1 := h.arg1 (by decide)
  refine ⟨_, _, execPack7_eq s, execPack7_eq s', sameResults_settle ?_ ?_ (pack7_ends _ _ _) fun p hr hp => ?_⟩
  · rw [h.ilenTooLong (by decide), h.capTooLarge (by decide)]
  · rw [h.cfg, h.input (by decide), h1]
  · have hcap := capTooLarge_eq_false.1 (Bool.or_eq_false_iff.1 hr).2
    exact sameResults_output (by decide) (by decide) h.cfg (by rw [h1]) le_rfl (le_min hp (hp.trans hcap))
      (fun _ => rfl) (by simp)

theorem unpack7_stateless (h : SameOperands .unpack7 s s') : Stateless .unpack7 s s' := by
  have h1 := h.arg1 (by decide)
  refine ⟨_, _, execUnpack7_eq s, execUnpack7_eq s', sameResults_settle ?_ ?_ (unpack7_ends _ _ _ _) fun l hr hp => ?_⟩
  · rw [h.ilenTooLong (by decide), h.capTooLarge (by decide)]
  · rw [h.cfg, h.input (by decide), h.arg0 (by decide), h1]
  · have hcap := capTooLarge_eq_false.1 (Bool.or_eq_false_iff.1 hr).2
    exact sameResults_octets (by decide) h.cfg (by rw [h1]) le_rfl (le_min hp (hp.trans hcap))

theorem encaddr_stateless (hw : s.cfg.wf = true) (h : SameOperands .encaddr s s') : Stateless .encaddr s s' := by
  obtain ⟨hpdu, hobuf, -, hdig, -⟩ := Config.wf_bounds hw
  refine ⟨_, _, execEncaddr_eq s, execEncaddr_eq s',
    sameResults_settle (h.ilenTooLong (by decide)) ?_ (encAddr_ends _ _) fun p _ hp => ?_⟩
  · rw [h.cfg, h.input (by decide)]
  · exact sameResults_output (by decide) (by decide) h.cfg (by rw [h.cfg]) le_rfl (by omega) (fun _ => rfl)
      (fun _ => rfl)

theorem decaddr_stateless (hw : s.cfg.wf = true) (h : SameOperands .decaddr s s') : Stateless .decaddr s s' := by
  obtain ⟨-, -, -, -, hstr, -⟩ := Config.wf_bounds hw
  refine ⟨_, _, execDecaddr_eq s, execDecaddr_eq s',
    sameResults_settle (h.ilenTooLong (by decide)) ?_ (decAddr_ends _ _ _ _) fun l _ hp => ?_⟩
  · rw [h.cfg, h.input (by decide), h.arg0 (by decide), toaOperand, h.arg1 (by decide)]
    rfl
  · exact sameResults_octets (by decide) h.cfg (by rw [h.cfg]) (by simp) (by simp; omega)

theorem encts_stateless (hw : s.cfg.wf = true) (h : SameOperands .encts s s') : Stateless .encts s s' := by
  obtain ⟨hpdu, hobuf, -⟩ := Config.wf_bounds hw
  refine ⟨_, _, execEncts_eq s, execEncts_eq s',
    sameResults_settle (h.ilenTooLong (by decide)) ?_ (encTs_ends _) fun l _ hp => ?_⟩
  · rw [h.input (by decide)]
  · exact sameResults_octets (by decide) h.cfg (by rw [h.cfg]) le_rfl (by omega)

theorem dects_stateless (hw : s.cfg.wf = true) (h : SameOperands .dects s s') : Stateless .dects s s' := by
  obtain ⟨-, -, -, -, -, -, hts, -⟩ := Config.wf_bounds hw
  refine ⟨_, _, execDects_eq s, execDects_eq s',
    sameResults_settle (P := fun l : List Byte => l.length + 1 ≤ s.cfg.tsStrCap) (h.ilenTooLong (by decide)) ?_
      (decTs_length hw _) fun l _ hp => ?_⟩
  · rw [h.cfg, h.input (by decide)]
  · exact sameResults_octets (by decide) h.cfg (by rw [h.cfg]) (by simp) (by simp; omega)

theorem encgsm_stateless (hw : s.cfg.wf = true) (h : SameOperands .encgsm s s') : Stateless .encgsm s s' := by
  obtain ⟨-, hobuf, -⟩ := Config.wf_bounds hw
  obtain ⟨hres, hsca, hsrr⟩ := h.flags (by decide)
  refine ⟨_, _, execEncgsm_eq s, execEncgsm_eq s', sameResults_settle ?_ ?_ (encGsm_ends _ _ _ _ _ _ _)
    fun l _ hp => ?_⟩
  · rw [h.ilenTooLong (by decide), hres]
  · rw [h.cfg, h.input (by decide), h.msgG rfl, h.arg0 (by decide), h.arg1 (by decide), hsca, hsrr]
  · exact sameResults_octets (by decide) h.cfg (by rw [h.cfg]) le_rfl (by omega)

/-- Both ways DECGSM can end draw the record from the same number of the free values. -/
theorem decgsm_stateless (h : SameOperands .decgsm s s') : Stateless .decgsm s s' := by
  obtain ⟨hres, hsca, -⟩ := h.flags (by decide)
  have hr : decGsm s'.cfg (input s') (scaFlag s') = decGsm s.cfg (input s) (scaFlag s) := by
    rw [h.cfg, h.input (by decide), hsca]
  have hraise : ∀ k, SameResults .decgsm (raise .decgsm k (start s)) (raise .decgsm k (start s')) := fun k =>
    sameResults_msgG rfl rfl (by simp [raise, finish, abandon, h.cfg, h.free])
  refine ⟨_, _, execDecgsm_eq s, execDecgsm_eq s', ?_⟩
  rw [hr, ← h.ilenTooLong (by decide), ← hres]
  unfold settle
  split
  · exact hraise _
  · split
    · exact hraise _
    · exact sameResults_msgG rfl rfl (by simp [h.cfg, h.free])

theorem takeFormat_ends (v : Byte) (m : CdmaPdu) : EndsWith (fun _ => True) (takeFormat v m) :=
  .guard (by decide) fun _ => trivial

theorem decCdma_ends (c : Config) (ib : Memory) (n : Nat) : EndsWith (fun _ => True) (decCdma c ib n) := by
  have h := takeFormat_ends (BitVec.ofNat 8 (readBits ib 0 8)) {}
  unfold decCdma
  split
  next he => exact h.of_error he
  · exact trivial

theorem deccdma_stateless (h : SameOperands .deccdma s s') : Stateless .deccdma s s' := by
  have hlen := h.ilen (by decide)
  have htoo := h.ilenTooLong (by decide)
  have hiff : (ilenTooLong s' = true ∨ s'.ilen = 0) ↔ (ilenTooLong s = true ∨ s.ilen = 0) := by rw [htoo, hlen]
  by_cases hr : ilenTooLong s = true ∨ s.ilen = 0
  · exact ⟨_, _, execDeccdma_refused hr, execDeccdma_refused (hiff.2 hr), sameResults_raise Kind.noConfusion rfl⟩
  · have h0 : s.ilen.toNat ≠ 0 := fun h => hr (.inr (BitVec.eq_of_toNat_eq h))
    have hsame : decCdma s.cfg s.ibuf s.ilen.toNat = decCdma s'.cfg s'.ibuf s'.ilen.toNat := by
      rw [← h.cfg, ← hlen]
      exact decCdma_same (h.ibuf (by decide)) s.cfg h0
    have hends := decCdma_ends s.cfg s.ibuf s.ilen.toNat
    cases hd : decCdma s.cfg s.ibuf s.ilen.toNat with
    | error k =>
      rw [hd] at hsame
      exact ⟨_, _, execDeccdma_error hr hd, execDeccdma_error (mt hiff.1 hr) hsame.symm,
        sameResults_raise (hends.of_error hd) rfl⟩
    | ok x =>
      rw [hd] at hsame
      exact ⟨_, _, execDeccdma_ok hr hd, execDeccdma_ok (mt hiff.1 hr) hsame.symm, sameResults_msgC rfl rfl rfl⟩

theorem checkRecord_ends (c : Config) (m : CdmaPdu) : EndsWith (fun _ => True) (checkRecord c m) :=
  .guard (by decide) fun _ => .guard (by decide) fun _ => .guard (by decide) fun _ =>
    .guard (by decide) fun _ => trivial

/-- What ENCCDMA has written lies below the capacity. -/
theorem emitRecord_within (m : CdmaPdu) (cap : Nat) (buf : Memory) :
    (emitRecord m (openW cap buf)).stream.wc.pos ≤ 8 * cap := by
  have h := emitRecord_later m (openW cap buf)
  have hc : (emitRecord m (openW cap buf)).stream.wc.cap = cap := h.cap
  have hp := h.within (Nat.zero_le _)
  rwa [hc] at hp

theorem enccdma_stateless (h : SameOperands .enccdma s s') : Stateless .enccdma s s' := by
  have hends := checkRecord_ends s.cfg s.msgC
  have halike := alike_emitRecord s.msgC s.cfg.cdmaPduCap s.obuf s'.obuf
  have hpos := emitRecord_within s.msgC s.cfg.cdmaPduCap s.obuf
  refine ⟨_, _, rfl, rfl, ?_⟩
  simp only [start_cfg, start_msgC, start_obuf, ← h.cfg, ← h.msgC rfl]
  split
  next he => exact sameResults_raise (hends.of_error he) rfl
  · generalize emitRecord s.msgC (openW s.cfg.cdmaPduCap s.obuf) = r,
      emitRecord s.msgC (openW s.cfg.cdmaPduCap s'.obuf) = r' at halike hpos ⊢
    cases halike with
    | error hv => exact sameResults_raise Kind.noConfusion rfl
    | @ok w w' hv =>
      dsimp only
      rw [← hv.wc]
      split
      · exact sameResults_raise Kind.noConfusion rfl
      · refine ⟨rfl, rfl, fun _ => ⟨by simp, by simp, fun _ _ => ⟨rfl, fun k hk => hv.buf k ?_⟩, by simp, by simp⟩⟩
        calc
          k < (toWord (w.wc.pos / 8)).toNat := hk
          _ ≤ w.wc.pos / 8 := by simpa [toWord] using Nat.mod_le (w.wc.pos / 8) _
          _ ≤ s.cfg.cdmaPduCap := Nat.div_le_of_le_mul hpos

end

/-- Settles O47: each operation by its own lemma. -/
theorem compositeStateless : Obligations.CompositeStateless := by
  intro s s' t t' hw i hi h ht ht'
  have key : Stateless i s s' := by
    fin_cases hi
    · exact pack7_stateless h
    · exact unpack7_stateless h
    · exact encaddr_stateless hw h
    · exact decaddr_stateless hw h
    · exact encts_stateless hw h
    · exact dects_stateless hw h
    · exact encgsm_stateless hw h
    · exact decgsm_stateless h
    · exact enccdma_stateless h
    · exact deccdma_stateless h
  obtain ⟨u, u', hu, hu', hr⟩ := key
  obtain rfl : u = t := by simpa [hu] using ht
  obtain rfl : u' = t' := by simpa [hu'] using ht'
  exact hr

end Sys2Proof.Machine
end

section
/-! PROOFS. Decoder and encoder (30_encoding.md): the word of an instruction reads back as it, and what a word reads as
is a row of the table it was read from. -/

namespace Sys2Proof

/-! ### What the word of a payload reads as, in each format that has one -/

theorem payload_extract {n : Nat} (v : BitVec n) (hn : n ≤ 32) : (v.setWidth 32).extractLsb' 0 n = v := by
  rw [BitVec.extractLsb'_setWidth_of_le (by omega), BitVec.extractLsb'_eq_self]

theorem octet_reserved (op : Byte) : (op.setWidth 32).extractLsb' 8 24 = 0 := by
  ext k hk
  simp

theorem headerWord_len (id len : Byte) : (headerWord id len).extractLsb' 0 8 = len := by
  rw [headerWord, BitVec.extractLsb'_setWidth_of_le (by decide), BitVec.extractLsb'_append_eq_right]

theorem headerWord_id (id len : Byte) : (headerWord id len).extractLsb' 8 8 = id := by
  rw [headerWord, BitVec.extractLsb'_setWidth_of_le (by decide), BitVec.extractLsb'_append_eq_left]

theorem decodeAt_cmd_octet (op : Byte) : decodeAt .cmd (op.setWidth 32) = .ok (decodeOp op) := by
  have hfit : ¬ 2 ^ Format.cmd.bits ≤ (op.setWidth 32).toNat := Nat.not_le.2 (Laws.octetWord_lt_cmd op)
  simp only [decodeAt, if_neg hfit, if_pos (octet_reserved op), payload_extract op (by decide)]

theorem decodeAt_cdmaFormat_octet (v : Byte) : decodeAt .cdmaFormat (v.setWidth 32) = .ok (decodeFormat v) := by
  have hfit : ¬ 2 ^ Format.cdmaFormat.bits ≤ (v.setWidth 32).toNat := Nat.not_le.2 (Laws.octetWord_lt v)
  simp only [decodeAt, if_neg hfit, payload_extract v (by decide)]

theorem decodeAt_cdmaParam_header (id len : Byte) :
    decodeAt .cdmaParam (headerWord id len) = .ok (decodeParam id len) := by
  have hfit : ¬ 2 ^ Format.cdmaParam.bits ≤ (headerWord id len).toNat := Nat.not_le.2 (Laws.headerWord_lt id len)
  simp only [decodeAt, if_neg hfit, headerWord_len, headerWord_id]

theorem decodeAt_cdmaSubparam_header (id len : Byte) :
    decodeAt .cdmaSubparam (headerWord id len) = .ok (decodeSubparam id len) := by
  have hfit : ¬ 2 ^ Format.cdmaSubparam.bits ≤ (headerWord id len).toNat := Nat.not_le.2 (Laws.headerWord_lt id len)
  simp only [decodeAt, if_neg hfit, headerWord_len, headerWord_id]

theorem decodeAt_udEncoding_tag (t : BitVec 5) :
    decodeAt .udEncoding (t.setWidth 32) = .ok (decodeUdEncoding t) := by
  have hfit : ¬ 2 ^ Format.udEncoding.bits ≤ (t.setWidth 32).toNat := Nat.not_le.2 (Laws.tagWord_lt t)
  simp only [decodeAt, if_neg hfit, payload_extract t (by decide)]

/-! ### The last row of each table: a value that no other row names -/

theorem assignedOp_eq_false_iff {op : Byte} :
    assignedOp op = false ↔ op ∉ ([0x01, 0x02, 0x03, 0x04, 0x05, 0x06, 0x07, 0x08, 0x10, 0x11, 0x20, 0x21, 0x22,
      0x23, 0x30, 0x31, 0x40, 0x41] : List Byte) := by
  rw [assignedOp, List.contains_eq_mem, decide_eq_false_iff_not]

theorem decodeOp_of_unassigned {op : Byte} (h : assignedOp op = false) : decodeOp op = .illegal op := by
  simp only [assignedOp_eq_false_iff, List.mem_cons, List.not_mem_nil, or_false, not_or] at h
  simp only [decodeOp, h, if_false]

theorem decodeFormat_of_undefined {v : Byte} (h : 2 < v.toNat) : decodeFormat v = .fmtUndefined v := by
  have hne : ¬ v = 0 ∧ ¬ v = 1 ∧ ¬ v = 2 := by bv_omega
  simp only [decodeFormat, hne, if_false]

theorem decodeParam_of_unknown {id : Byte} (h : 8 < id.toNat) (len : Byte) :
    decodeParam id len = .pUnknown id len := by
  have hne : ∀ k : Byte, k.toNat ≤ 8 → ¬ id = k := by rintro k hk rfl; omega
  simp (disch := decide) only [decodeParam, hne, if_false]

theorem decodeSubparam_of_unknown {id : Byte} (h : 23 < id.toNat) (len : Byte) :
    decodeSubparam id len = .sUnknown id len := by
  have hne : ∀ k : Byte, k.toNat ≤ 23 → ¬ id = k := by rintro k hk rfl; omega
  simp (disch := decide) only [decodeSubparam, hne, if_false]

theorem decodeUdEncoding_of_undefined {t : BitVec 5} (h : 10 < t.toNat) : decodeUdEncoding t = .udUndefined t := by
  have hne : ∀ k : BitVec 5, k.toNat ≤ 10 → ¬ t = k := by rintro k hk rfl; omega
  simp (disch := decide) only [decodeUdEncoding, hne, if_false]

/-- Settles O5: a row that carries no value is one fixed word; a header, an octet or a tag that carries one reads as its
table's function of the value, and a value outside the named ones takes the table's last row. -/
theorem decodeInvertsEncode : Obligations.DecodeInvertsEncode := by
  intro i hw
  cases i with
  | rcinit | wcinit | rdbits | wrbits | skipb | flush | rcseek | wcpatch | pack7 | unpack7 | encaddr | decaddr | encts
  | dects | encgsm | decgsm | enccdma | deccdma => rfl
  | mtiDeliver | mtiSubmit | mti10 | mti11 | vpfNone | vpfRelative | vpfEnhanced | vpfAbsolute | udhi | srr => rfl
  | dcsG07bit | dcsG08bit | dcsG0Ucs2 | dcsG0Reserved | dcsGF7bit | dcsGF8bit | dcsG01 | dcsG10 | dcsG1100 | dcsG1101
  | dcsG1110 | toaInternational => rfl
  | fmtPointToPoint | fmtBroadcast | fmtAcknowledge => rfl
  | udOctet | udEpm | udAscii7 | udIa5 | udUnicode | udShiftjis | udKorean | udLatinhebrew | udLatin | udGsm7
  | udGsmdcs => rfl
  | esc | esc0C | esc5E | esc7B | esc7D | esc5C | esc5B | esc7E | esc5D | esc7C => rfl
  | pTeleservice | pServcat | pOrigaddr | pOrigsub | pDestaddr | pDestsub | pBearerreply | pCause | pBearerdata =>
    exact decodeAt_cdmaParam_header _ _
  | sMsgid | sUserdata | sRespcode | sMcts | sVpabs | sVprel | sDdtabs | sDdtrel | sPriority | sPrivacy | sReplyopt
  | sMsgcount | sAlert | sLanguage | sCallback | sDispmode | sMultienc | sDeposit | sScpdata | sScpresult | sMsgstatus
  | sTpfail | sEvmn | sEvmnack => exact decodeAt_cdmaSubparam_header _ _
  | illegal op =>
    have h : assignedOp op = false := by simpa [Instr.wf] using hw
    exact (decodeAt_cmd_octet op).trans (congrArg _ (decodeOp_of_unassigned h))
  | fmtUndefined v =>
    exact (decodeAt_cdmaFormat_octet v).trans (congrArg _ (decodeFormat_of_undefined (of_decide_eq_true hw)))
  | pUnknown id len =>
    exact (decodeAt_cdmaParam_header id len).trans (congrArg _ (decodeParam_of_unknown (of_decide_eq_true hw) len))
  | sUnknown id len =>
    exact (decodeAt_cdmaSubparam_header id len).trans
      (congrArg _ (decodeSubparam_of_unknown (of_decide_eq_true hw) len))
  | udUndefined t =>
    exact (decodeAt_udEncoding_tag t).trans (congrArg _ (decodeUdEncoding_of_undefined (of_decide_eq_true hw)))

/-! ### What each table answers is one of its rows -/

/-- `i` is a row of the table of format `f`, with a value its row admits. -/
def IsRowOf (f : Format) (i : Instr) : Prop := i.wf = true ∧ formatOf i = f

/-- One test of a table: the row it names, else a row of the tests that follow. -/
theorem IsRowOf.ite {f : Format} {c : Prop} [Decidable c] {a b : Instr} (ha : IsRowOf f a) (hb : ¬ c → IsRowOf f b) :
    IsRowOf f (if c then a else b) := by
  split
  · exact ha
  next hc => exact hb hc

theorem decodeOp_isRow (op : Byte) : IsRowOf .cmd (decodeOp op) := by
  unfold decodeOp
  iterate 18 refine .ite ⟨rfl, rfl⟩ fun _ => ?_
  have hop : assignedOp op = false := by
    simp only [assignedOp_eq_false_iff, List.mem_cons, List.not_mem_nil, or_false, not_false_eq_true, *]
  exact ⟨by rw [Instr.wf, hop]; rfl, rfl⟩

theorem decodeMti_isRow (fo : Byte) : IsRowOf .foMti (decodeMti fo) := by
  unfold decodeMti
  split_ifs <;> exact ⟨rfl, rfl⟩

theorem decodeVpf_isRow (fo : Byte) : IsRowOf .foVpf (decodeVpf fo) := by
  unfold decodeVpf
  split_ifs <;> exact ⟨rfl, rfl⟩

theorem decodeDcs_isRow (d : Byte) : IsRowOf .gsmDcs (decodeDcs d) := by
  unfold decodeDcs
  split_ifs <;> exact ⟨rfl, rfl⟩

theorem decodeFormat_isRow (v : Byte) : IsRowOf .cdmaFormat (decodeFormat v) := by
  unfold decodeFormat
  iterate 3 refine .ite ⟨rfl, rfl⟩ fun _ => ?_
  exact ⟨decide_eq_true (by bv_omega), rfl⟩

theorem decodeParam_isRow (id len : Byte) : IsRowOf .cdmaParam (decodeParam id len) := by
  unfold decodeParam
  iterate 9 refine .ite ⟨rfl, rfl⟩ fun _ => ?_
  exact ⟨decide_eq_true (by bv_omega), rfl⟩

theorem decodeSubparam_isRow (id len : Byte) : IsRowOf .cdmaSubparam (decodeSubparam id len) := by
  unfold decodeSubparam
  iterate 24 refine .ite ⟨rfl, rfl⟩ fun _ => ?_
  exact ⟨decide_eq_true (by bv_omega), rfl⟩

theorem decodeUdEncoding_isRow (t : BitVec 5) : IsRowOf .udEncoding (decodeUdEncoding t) := by
  unfold decodeUdEncoding
  iterate 11 refine .ite ⟨rfl, rfl⟩ fun _ => ?_
  exact ⟨decide_eq_true (by bv_omega), rfl⟩

theorem decodeAfterEsc_isRow {x : Septet} {i : Instr} (h : decodeAfterEsc x = .ok i) : IsRowOf .septetAfterEsc i := by
  unfold decodeAfterEsc at h
  split_ifs at h <;> cases h <;> exact ⟨rfl, rfl⟩

/-- Settles O6: the word is within its format, and then each format's table answers one of its rows. -/
theorem decodeIsWellFormed : Obligations.DecodeIsWellFormed := by
  intro f w i h
  show IsRowOf f i
  unfold decodeAt at h
  split at h
  · cases h
  cases f with
  | cmd =>
    dsimp only at h
    split at h
    · cases h
      exact decodeOp_isRow _
    · cases h
  | foMti => cases h; exact decodeMti_isRow _
  | foVpf => cases h; exact decodeVpf_isRow _
  | gsmDcs => cases h; exact decodeDcs_isRow _
  | cdmaFormat => cases h; exact decodeFormat_isRow _
  | cdmaParam => cases h; exact decodeParam_isRow _ _
  | cdmaSubparam => cases h; exact decodeSubparam_isRow _ _
  | udEncoding => cases h; exact decodeUdEncoding_isRow _
  | septetAfterEsc => exact decodeAfterEsc_isRow h
  | foUdhi | foSrr | gsmToa | septet =>
    dsimp only at h
    split at h
    · cases h
      exact ⟨rfl, rfl⟩
    · cases h

/-- Settles O7: each word evaluated at its format. -/
theorem decodeWords : Obligations.DecodeWords :=
  ⟨rfl, rfl, rfl, rfl, rfl, rfl, rfl, rfl, rfl, rfl, rfl, rfl, rfl, rfl, rfl, rfl⟩

end Sys2Proof
end

section
/-! PROOFS. The illegal command (R92). -/

namespace Sys2Proof.Machine

/-- The gaps that R90 leaves between its operation codes hold no assigned one. -/
theorem assignedOp_of_gap {op : Byte}
    (h : op.toNat = 0 ∨ (0x09 ≤ op.toNat ∧ op.toNat ≤ 0x0F) ∨ (0x12 ≤ op.toNat ∧ op.toNat ≤ 0x1F) ∨
      (0x24 ≤ op.toNat ∧ op.toNat ≤ 0x2F) ∨ (0x32 ≤ op.toNat ∧ op.toNat ≤ 0x3F) ∨ 0x42 ≤ op.toNat) :
    assignedOp op = false := by
  simp only [assignedOp_eq_false_iff, List.mem_cons, List.not_mem_nil, or_false]
  bv_omega

theorem exec_illegal (op : Byte) (s : State) : exec (.illegal op) s = .next { s with status := 3, diag := 0 } := rfl

/-- Settles O8: an unassigned code decodes to the illegal command, which `step` runs. -/
theorem illegalCommand_statusDiagOnly : Obligations.IllegalCommand := by
  intro s op h
  refine ⟨exec_illegal op s, fun hs hc => ?_⟩
  have hd : decodeAt .cmd s.cmd = .ok (.illegal op) := by
    rw [hc, decodeAt_cmd_octet, decodeOp_of_unassigned (assignedOp_of_gap h)]
  exact (step_of_cmd hs hd).trans (exec_illegal op s)

end Sys2Proof.Machine
end

section
/-! PROOFS. One element as a step of the operation that meets it (log 11): how a step on the GSM locals ends, and the
message format octet. -/

namespace Sys2Proof.Machine

open Host (Outcome)
open Wire

/-! ### A raise inside a running operation -/

/-- A raise in an element ends the operation that met it, and its locals go idle. -/
theorem stopOperation_raised (k : Kind) (s : State) :
    Raised s.work.op k s (stopOperation k s) ∧ (stopOperation k s).work = {} :=
  ⟨raise_raised s.work.op k s, rfl⟩

/-! ### A step of DECGSM -/

theorem gsmStep_ok {f : GsmWork → Except Kind GsmWork} {s : State} {w : GsmWork} (h : f s.work.gsm = .ok w) :
    gsmStep f s = { s with work := { s.work with gsm := w } } := by
  simp only [gsmStep, h]

theorem gsmStep_error {f : GsmWork → Except Kind GsmWork} {s : State} {k : Kind} (h : f s.work.gsm = .error k) :
    gsmStep f s = stopOperation k s := by
  simp only [gsmStep, h, stopOperation]

/-- An element that DECGSM refuses ends the running operation with the kind of the refusal. -/
theorem exec_gsmStep_raised {i : Instr} {f : GsmWork → Except Kind GsmWork} {s : State} {k : Kind}
    (hx : exec i s = .next (gsmStep f s)) (hf : f s.work.gsm = .error k) :
    ∃ t, exec i s = .next t ∧ Raised s.work.op k s t ∧ t.work = {} :=
  ⟨stopOperation k s, hx.trans (congrArg _ (gsmStep_error hf)), stopOperation_raised k s⟩

theorem exec_gsmStep_next {i : Instr} {f : GsmWork → Except Kind GsmWork} {s : State} {w : GsmWork}
    (hx : exec i s = .next (gsmStep f s)) (hf : f s.work.gsm = .ok w) :
    exec i s = .next { s with work := { s.work with gsm := w } } :=
  hx.trans (congrArg _ (gsmStep_ok hf))

theorem statusReport_submit {w : GsmWork} (h : w.kind = 1) : statusReport w = .ok { w with srr := 1 } := by
  rw [statusReport, if_pos h]

theorem statusReport_other {w : GsmWork} (h : w.kind ≠ 1) : statusReport w = .ok w := by
  rw [statusReport, if_neg h]

/-- At step 6, UDL not read yet, a coding scheme selects its alphabet (R202, log 15). -/
theorem alphabet_before_udl {w : GsmWork} (h : w.udl = none) (c : Config) (l : List Byte) (a : BitVec 2) :
    alphabet c l a w = .ok { w with alpha := a } := by
  simp only [alphabet, h]

/-- Settles O39: each element is one step of DECGSM on its locals, or of the address on the text's. -/
theorem flagElements : Obligations.FlagElements := by
  intro s
  refine ⟨rfl, rfl, fun i hi => ?_, fun h => exec_gsmStep_next rfl (statusReport_submit h),
    fun h => exec_gsmStep_next rfl (statusReport_other h), rfl⟩
  simp only [List.mem_cons, List.not_mem_nil, or_false] at hi
  rcases hi with rfl | rfl | rfl <;> exact exec_gsmStep_raised rfl rfl

/-- Settles O41: a scheme of group 00 or 1111 is the `alphabet` step, one of another group is refused. -/
theorem codingSelects : Obligations.CodingSelects := by
  refine fun s => ⟨fun hu x hx => ?_, fun i hi => ?_⟩
  · simp only [List.mem_cons, List.not_mem_nil, or_false] at hx
    rcases hx with rfl | rfl | rfl | rfl | rfl | rfl <;> exact exec_gsmStep_next rfl (alphabet_before_udl hu _ _ _)
  · simp only [List.mem_cons, List.not_mem_nil, or_false] at hi
    rcases hi with rfl | rfl | rfl | rfl | rfl <;> exact exec_gsmStep_raised (f := refusedGroup) rfl rfl

/-! ### A field on the write cursor -/

@[simp] theorem bits_length (n v : Nat) : (bits n v).length = n := by simp [bits]

theorem bits_getD {n i : Nat} (v : Nat) (h : i < n) : (bits n v).getD i false = v.testBit (n - 1 - i) := by
  simp [bits, List.getD_eq_getElem?_getD, h]

theorem holds_putBits (m : Memory) (p v n : Nat) : Holds (putBits m p v n) p (bits n v) := by
  intro i hi
  rw [bits_length] at hi
  rw [streamBit_putBits, if_pos (by omega), Nat.add_sub_cancel_left, bits_getD v hi]

theorem keptOutside_putBits (m : Memory) (p v n : Nat) : KeptOutside p n m (putBits m p v n) := by
  intro q hq
  rw [streamBit_putBits, if_neg (by omega)]

/-! ### The message format octet (R105) -/

theorem takeFormat_ok {v : Byte} (h : v.toNat ≤ 2) (m : CdmaPdu) : takeFormat v m = .ok { m with format := v } :=
  if_neg (Nat.not_lt.2 h)

theorem takeFormat_error {v : Byte} (h : 2 < v.toNat) (m : CdmaPdu) : takeFormat v m = .error .unsupported :=
  if_pos h

theorem formatElement_decode {v : Byte} {s : State} (hop : s.work.op ≠ .enccdma) (hv : v.toNat ≤ 2) :
    formatElement v s = { s with work := { s.work with m := { s.work.m with format := v } } } := by
  simp only [formatElement, if_neg hop, takeFormat_ok hv]

theorem formatElement_encode {v : Byte} {s : State} (hop : s.work.op = .enccdma) (hv : v.toNat ≤ 2) :
    formatElement v s = s.putW (wr v.toNat 8 s.wstream) := by
  rw [formatElement, if_pos hop, if_neg (Nat.not_lt.2 hv), wrF]

theorem formatElement_undefined {v : Byte} {s : State} (hv : 2 < v.toNat) :
    formatElement v s = stopOperation (if s.work.op = .enccdma then .fault else .unsupported) s := by
  by_cases hop : s.work.op = .enccdma
  · simp only [formatElement, if_pos hop, if_pos hv]
  · simp only [formatElement, if_neg hop, takeFormat_error hv]

/-- Settles O51: the decoder keeps a defined octet in its record, the encoder writes it as an 8-bit field at WC, and
both refuse an undefined one. -/
theorem formatElements : Obligations.FormatElements := by
  refine fun s => ⟨fun x hx => ?_, fun v hv => ?_⟩
  · obtain ⟨hexec, hv⟩ : exec x.1 s = .next (formatElement x.2 s) ∧ x.2.toNat ≤ 2 := by
      simp only [List.mem_cons, List.not_mem_nil, or_false] at hx
      rcases hx with rfl | rfl | rfl <;> exact ⟨rfl, by decide⟩
    rw [hexec]
    refine ⟨fun hop => ?_, fun hop hroom => ?_, fun hop hfull => ?_⟩
    · rw [formatElement_decode hop hv]
    · refine ⟨putBits s.obuf s.wc.pos x.2.toNat 8, ?_, holds_putBits _ _ _ _, keptOutside_putBits _ _ _ _⟩
      rw [formatElement_encode hop hv, wr_fits hroom]
      rfl
    · rw [formatElement_encode hop hv, wr_full hfull]
      rfl
  · obtain ⟨hr, hw⟩ := stopOperation_raised (if s.work.op = .enccdma then .fault else .unsupported) s
    exact ⟨_, congrArg Outcome.next (formatElement_undefined hv), hw, hr⟩

end Sys2Proof.Machine
end

section
/-! PROOFS. The bit buffer (40_bitbuffer.md): what each primitive operation does on each of its branches, said once. -/

namespace Sys2Proof.Machine

open Host (Outcome)

/-! ### A field read, bit by bit -/

/-- Bit `i` of a field is the stream bit that stands `i` before its last one (R62). -/
theorem testBit_readBits (m : Memory) (p n i : Nat) :
    (readBits m p n).testBit i = (decide (i < n) && streamBit m (p + (n - 1 - i))) := by
  induction n generalizing i with
  | zero => simp [readBits]
  | succ n ih =>
    cases i with
    | zero => cases h : streamBit m (p + n) <;> simp [readBits, h]
    | succ i =>
      have hdiv : (2 * readBits m p n + (streamBit m (p + n)).toNat) / 2 = readBits m p n := by
        have := Bool.toNat_le (streamBit m (p + n)); omega
      rw [readBits, Nat.testBit_succ, hdiv, ih, show n + 1 - 1 - (i + 1) = n - 1 - i by omega]
      simp

/-- Widening a field to a register changes no bit of it. -/
theorem setWidth_readBits (m : Memory) (p n : Nat) :
    (BitVec.ofNat n (readBits m p n)).setWidth 32 = BitVec.ofNat 32 (readBits m p n) := by
  apply BitVec.eq_of_toNat_eq
  simp [Nat.mod_eq_of_lt (readBits_lt m p n)]

/-! ### A closed cursor (R148) -/

theorem exec_reader_closed {i : Instr} {s : State} (hi : i ∈ [Instr.rdbits, .skipb, .rcseek])
    (h : s.rc.isOpen = false) : exec i s = .next { s with diag := 0, status := 3 } := by
  simp only [List.mem_cons, List.not_mem_nil, or_false] at hi
  rcases hi with rfl | rfl | rfl <;> exact congrArg Outcome.next (if_pos h)

theorem exec_writer_closed {i : Instr} {s : State} (hi : i ∈ [Instr.wrbits, .flush, .wcpatch])
    (h : s.wc.isOpen = false) : exec i s = .next { s with diag := 0, status := 3 } := by
  simp only [List.mem_cons, List.not_mem_nil, or_false] at hi
  rcases hi with rfl | rfl | rfl <;> exact congrArg Outcome.next (if_pos h)

/-- Settles O18: each operation tests its cursor before anything else. -/
theorem closedCursor : Obligations.ClosedCursor := fun _ =>
  ⟨fun h _ hi => exec_reader_closed hi h, fun h _ hi => exec_writer_closed hi h⟩

/-! ### The read cursor -/

/-- Settles O11: the one test of RCINIT. -/
theorem rcinitOpens : Obligations.RcinitOpens := by
  intro s
  by_cases h : s.cfg.ibufCap < s.ilen.toNat
  · rw [if_pos h]
    exact congrArg Outcome.next (if_pos (decide_eq_true h))
  · rw [if_neg h]
    exact congrArg Outcome.next (if_neg (by simpa using ilenTooLong_eq_false.2 (Nat.not_lt.1 h)))

theorem exec_skipb_open {s : State} (h : s.rc.isOpen = true) :
    exec .skipb s = .next { s with diag := 0, status := 0, rc := skipb s.rc } :=
  congrArg Outcome.next (if_neg (ne_false_of_eq_true h))

theorem exec_rcseek_open {s : State} (h : s.rc.isOpen = true) :
    exec .rcseek s = .next { s with diag := 0, status := 0, rc := seek s.arg0.toNat s.rc } :=
  congrArg Outcome.next (if_neg (ne_false_of_eq_true h))

/-- Settles O15: `skipb` and `seek` are the two moves. -/
theorem readCursorMoves : Obligations.ReadCursorMoves := fun _ h => ⟨exec_skipb_open h, exec_rcseek_open h⟩

/-! ### RDBITS and WRBITS -/

/-- A bad width raises FAULT with DIAG.WIDTH alone (R142, R143). -/
theorem raise_width {s : State} (h : s.diag = 0) :
    raise .idle .fault (setDiag diagWidth s) = { s with diag := 0x10, status := 3 } := by
  simp [setDiag, finish, kindCode, diagWidth, h]

theorem not_badWidth {n : Nat} (h : 1 ≤ n ∧ n ≤ 32) : ¬(n < 1 ∨ 32 < n) := by omega

theorem exec_rdbits_width {s : State} (h : s.rc.isOpen = true) (hn : s.arg0.toNat < 1 ∨ 32 < s.arg0.toNat) :
    exec .rdbits s = .next { s with diag := 0x10, status := 3, res0 := 0 } :=
  congrArg Outcome.next ((if_neg (ne_false_of_eq_true h)).trans ((if_pos hn).trans (raise_width rfl)))

section
variable {s : State} (hopen : s.rc.isOpen = true) (hwidth : 1 ≤ s.arg0.toNat ∧ s.arg0.toNat ≤ 32)
include hopen hwidth

theorem exec_rdbits_overflow (h : 8 * s.rc.cap < s.rc.pos + s.arg0.toNat) :
    exec .rdbits s = .next { s with diag := 0, status := 2, res0 := 0 } := by
  refine congrArg Outcome.next ((if_neg (ne_false_of_eq_true hopen)).trans ((if_neg (not_badWidth hwidth)).trans ?_))
  simp only [start_ibuf, start_arg0, start_rc, rd_none.2 h]
  rfl

theorem exec_rdbits_fits (h : s.rc.pos + s.arg0.toNat ≤ 8 * s.rc.cap) :
    exec .rdbits s = .next { s with
      diag := 0, status := 0, res0 := BitVec.ofNat 32 (readBits s.ibuf s.rc.pos s.arg0.toNat)
      rc := { s.rc with pos := s.rc.pos + s.arg0.toNat } } := by
  refine congrArg Outcome.next ((if_neg (ne_false_of_eq_true hopen)).trans ((if_neg (not_badWidth hwidth)).trans ?_))
  simp only [start_ibuf, start_arg0, start_rc, rd_eq h, setWidth_readBits]
  rfl

end

/-- Settles O13: RDBITS by its branch, and the bits of the value it reads. -/
theorem rdbitsReads : Obligations.RdbitsReads := by
  refine fun s hopen => ⟨exec_rdbits_width hopen, fun h1 h32 h => exec_rdbits_overflow hopen ⟨h1, h32⟩ h,
    fun h1 h32 h => ⟨_, exec_rdbits_fits hopen ⟨h1, h32⟩ h, fun i hi => ?_⟩⟩
  simp only [BitVec.getLsbD_ofNat, hi, decide_true, Bool.true_and, testBit_readBits]

theorem exec_wrbits_width {s : State} (h : s.wc.isOpen = true) (hn : s.arg0.toNat < 1 ∨ 32 < s.arg0.toNat) :
    exec .wrbits s = .next { s with diag := 0x10, status := 3 } :=
  congrArg Outcome.next ((if_neg (ne_false_of_eq_true h)).trans ((if_pos hn).trans (raise_width rfl)))

section
variable {s : State} (hopen : s.wc.isOpen = true) (hwidth : 1 ≤ s.arg0.toNat ∧ s.arg0.toNat ≤ 32)
include hopen hwidth

theorem exec_wrbits_overflow (h : 8 * s.wc.cap < s.wc.pos + s.arg0.toNat) :
    exec .wrbits s = .next { s with diag := 0, status := 2, wc := { s.wc with ovf := true } } := by
  refine congrArg Outcome.next ((if_neg (ne_false_of_eq_true hopen)).trans ((if_neg (not_badWidth hwidth)).trans
    ((if_pos h).trans ?_)))
  rw [wr_full h]
  rfl

theorem exec_wrbits_fits (h : s.wc.pos + s.arg0.toNat ≤ 8 * s.wc.cap) :
    exec .wrbits s = .next { s with
      diag := 0, status := 0, obuf := putBits s.obuf s.wc.pos s.arg1.toNat s.arg0.toNat
      wc := { s.wc with pos := s.wc.pos + s.arg0.toNat } } := by
  refine congrArg Outcome.next ((if_neg (ne_false_of_eq_true hopen)).trans ((if_neg (not_badWidth hwidth)).trans
    ((if_neg (Nat.not_lt.2 h)).trans ?_)))
  rw [wr_fits h]
  rfl

end

/-- Settles O14: WRBITS by its branch, and what `putBits` does to each stream bit. -/
theorem wrbitsWrites : Obligations.WrbitsWrites := by
  refine fun s hopen => ⟨exec_wrbits_width hopen, fun h1 h32 h => exec_wrbits_overflow hopen ⟨h1, h32⟩ h,
    fun h1 h32 h => ⟨_, exec_wrbits_fits hopen ⟨h1, h32⟩ h, fun i hi => ?_, keptOutside_putBits _ _ _ _⟩⟩
  rw [streamBit_putBits, if_pos (by omega), Nat.add_sub_cancel_left, BitVec.testBit_toNat]

/-! ### WCINIT, FLUSH and WCPATCH -/

theorem exec_wcinit_fits {s : State} (h : s.arg0.toNat ≤ s.cfg.obufCap) :
    exec .wcinit s = .next { s with
      diag := 0, status := 0, olen := 0, obuf := memSetPrefix s.obuf (List.replicate s.arg0.toNat 0)
      wc := { isOpen := true, cap := s.arg0.toNat, pos := 0, ovf := false } } :=
  congrArg Outcome.next (if_neg (by simpa using capTooLarge_eq_false.2 h))

theorem exec_wcinit_tooLarge {s : State} (h : s.cfg.obufCap < s.arg0.toNat) :
    exec .wcinit s = .next (raise .wcinit .fault (start s)) :=
  congrArg Outcome.next (if_pos (decide_eq_true h))

/-- What WCINIT leaves in OBUF. -/
theorem memRead_clearPrefix (m : Memory) (n a : Nat) :
    memRead (memSetPrefix m (List.replicate n 0)) a = if a < n then 0 else memRead m a := by
  rw [memRead_memSetPrefix, List.length_replicate]
  by_cases h : a < n <;> simp [h, List.getD_eq_getElem?_getD]

/-- Settles O12: WCINIT by its one test; what may change on FAULT is what a raise may change. -/
theorem wcinitOpens : Obligations.WcinitOpens := by
  refine fun s => ⟨fun h => ⟨_, exec_wcinit_fits h, fun a ha => ?_, fun a ha => ?_⟩,
    fun h => ⟨_, exec_wcinit_tooLarge h, raise_raised _ _ _⟩⟩
  · rw [memRead_clearPrefix, if_pos ha]
  · rw [memRead_clearPrefix, if_neg (Nat.not_lt.2 ha)]

theorem exec_flush_open {s : State} (h : s.wc.isOpen = true) :
    exec .flush s = .next { s with
      diag := 0, status := 0, obuf := (flushBits s.wstream).buf, olen := toWord (ceil8 s.wc.pos)
      wc := { s.wc with pos := 8 * ceil8 s.wc.pos } } := by
  refine congrArg Outcome.next ((if_neg (ne_false_of_eq_true h)).trans ?_)
  simp only [flushBits_pos, Nat.mul_div_cancel_left _ (show 0 < 8 by decide)]
  rfl

/-- Settles O16: FLUSH writes zero bits over its padding and no other bit. -/
theorem flushPads : Obligations.FlushPads := by
  refine fun s h => ⟨_, exec_flush_open h, fun q h1 h2 => ?_, keptOutside_putBits _ _ _ _⟩
  rw [streamBit_flushBits, if_pos ⟨h1, h2⟩]

theorem exec_wcpatch_ahead {s : State} (h : s.wc.isOpen = true) (hb : s.wc.pos < 8 * s.arg0.toNat + 8) :
    exec .wcpatch s = .next { s with diag := 0, status := 3 } :=
  congrArg Outcome.next ((if_neg (ne_false_of_eq_true h)).trans (if_pos hb))

theorem exec_wcpatch_behind {s : State} (h : s.wc.isOpen = true) (hb : 8 * s.arg0.toNat + 8 ≤ s.wc.pos) :
    exec .wcpatch s = .next { s with
      diag := 0, status := 0, obuf := memWrite s.obuf s.arg0.toNat (low8 s.arg1.toNat) } :=
  congrArg Outcome.next ((if_neg (ne_false_of_eq_true h)).trans (if_neg (Nat.not_lt.2 hb)))

theorem low8_toNat (w : Word) : low8 w.toNat = w.setWidth 8 := by simp [low8]

/-- Settles O17: WCPATCH by its branch, and the one octet it writes. -/
theorem wcpatchPatches : Obligations.WcpatchPatches := by
  refine fun s h => ⟨exec_wcpatch_ahead h, fun hb => ⟨_, exec_wcpatch_behind h hb, ?_, fun a ha => ?_⟩⟩
  · rw [memRead_memWrite_same, low8_toNat]
  · exact memRead_memWrite_other _ _ _ _ ha

end Sys2Proof.Machine
end

section
/-! PROOFS. The laws of the bit buffer (R149): no cursor moves back, no octet at WC.cap or above is written, and what was
written reads back. -/

namespace Sys2Proof.Machine

open Host (Outcome)

/-! ### Moving on (R149 (b), (c)) -/

/-- From `s` to `t` no cursor moved back, and OBUF at the capacity of WC and above is as it was if WC stood within it. -/
structure MovesOn (s t : State) : Prop where
  rc : s.rc.pos ≤ t.rc.pos
  wc : s.wc.pos ≤ t.wc.pos
  obuf : s.wc.pos ≤ 8 * s.wc.cap → OutputKeptFrom s.wc.cap s t

theorem MovesOn.of_later {s t : State} (hrc : s.rc.pos ≤ t.rc.pos) (hw : s.wstream.Later t.wstream) : MovesOn s t :=
  ⟨hrc, hw.pos, hw.above⟩

/-- The write stream is as it was: RC alone moved on, or nothing did. -/
theorem MovesOn.of_wstream {s t : State} (hrc : s.rc.pos ≤ t.rc.pos) (hw : t.wstream = s.wstream) : MovesOn s t :=
  .of_later hrc (hw ▸ .refl _)

section
variable {s t : State}

theorem rdbits_movesOn (h : exec .rdbits s = .next t) : MovesOn s t := by
  obtain rfl := Outcome.next.inj h
  split
  · exact .of_wstream le_rfl rfl
  · split
    · exact .of_wstream le_rfl rfl
    · split
      · exact .of_wstream le_rfl rfl
      next v c hrd =>
        obtain ⟨-, -, rfl⟩ := rd_some hrd
        exact .of_wstream (Nat.le_add_right _ _) rfl

theorem wrbits_movesOn (h : exec .wrbits s = .next t) : MovesOn s t := by
  obtain rfl := Outcome.next.inj h
  split
  · exact .of_wstream le_rfl rfl
  · split
    · exact .of_wstream le_rfl rfl
    · split <;> exact .of_later le_rfl (wr_later _ _ _)

theorem skipb_movesOn (h : exec .skipb s = .next t) : MovesOn s t := by
  obtain rfl := Outcome.next.inj h
  split
  · exact .of_wstream le_rfl rfl
  · exact .of_wstream (ceil8_mul _).1 rfl

theorem flush_movesOn (h : exec .flush s = .next t) : MovesOn s t := by
  obtain rfl := Outcome.next.inj h
  split
  · exact .of_wstream le_rfl rfl
  · exact .of_later le_rfl (flushBits_later _)

/-- The patched octet is behind the cursor, so below the capacity. -/
theorem wcpatch_movesOn (h : exec .wcpatch s = .next t) : MovesOn s t := by
  obtain rfl := Outcome.next.inj h
  split
  · exact .of_wstream le_rfl rfl
  · split
    · exact .of_wstream le_rfl rfl
    next hb =>
      rw [start_arg0, start_wc] at hb
      exact ⟨le_rfl, le_rfl, fun hw a ha => memRead_memWrite_other _ _ _ _ (by rw [start_arg0]; omega)⟩

theorem rcinit_obuf (h : exec .rcinit s = .next t) : t.obuf = s.obuf := by
  obtain rfl := Outcome.next.inj h
  split <;> rfl

theorem rcseek_obuf (h : exec .rcseek s = .next t) : t.obuf = s.obuf := by
  obtain rfl := Outcome.next.inj h
  split <;> rfl

end

theorem movesOn_of_exec {s t : State} {i : Instr} (hi : i ∈ [Instr.rdbits, .wrbits, .skipb, .flush, .wcpatch])
    (h : exec i s = .next t) : MovesOn s t := by
  simp only [List.mem_cons, List.not_mem_nil, or_false] at hi
  rcases hi with rfl | rfl | rfl | rfl | rfl
  · exact rdbits_movesOn h
  · exact wrbits_movesOn h
  · exact skipb_movesOn h
  · exact flush_movesOn h
  · exact wcpatch_movesOn h

/-- Settles O19: the five operations that move on, and the two that reopen or seek RC and write no octet. -/
theorem primitivesMoveOn : Obligations.PrimitivesMoveOn := by
  refine fun s t hs => ⟨fun i hi h => ?_, fun i hi h => ?_⟩
  · have hm := movesOn_of_exec hi h
    exact ⟨hm.rc, hm.wc⟩
  · by_cases h5 : i ∈ [Instr.rdbits, .wrbits, .skipb, .flush, .wcpatch]
    · exact (movesOn_of_exec h5 h).obuf hs.wcPos
    · obtain rfl | rfl : i = .rcinit ∨ i = .rcseek := by
        simp only [List.mem_cons, List.not_mem_nil, or_false] at hi h5
        tauto
      · exact fun a _ => by rw [rcinit_obuf h]
      · exact fun a _ => by rw [rcseek_obuf h]

/-! ### What was written reads back (R149 (a)) -/

/-- The widths of a sequence of writes. -/
abbrev widths (l : List (Word × Nat)) : List Nat := l.map (fun x => x.2)

theorem widths_sum_cons (v : Word) (n : Nat) (l : List (Word × Nat)) :
    (widths ((v, n) :: l)).sum = n + (widths l).sum := List.sum_cons

/-- Every width is one that RDBITS and WRBITS take. -/
abbrev WidthsOk (l : List (Word × Nat)) : Prop := ∀ x ∈ l, 1 ≤ x.2 ∧ x.2 ≤ 32

/-- From bit `p` on, `m` holds one field after the other: of each value its low bits. -/
def HoldsFields (m : Memory) : Nat → List (Word × Nat) → Prop
  | _, [] => True
  | p, (v, n) :: l => readBits m p n = v.toNat % 2 ^ n ∧ HoldsFields m (p + n) l

theorem HoldsFields.congr {m m' : Memory} {p : Nat} {l : List (Word × Nat)} (h : HoldsFields m p l)
    (hq : ∀ q, q < p + (widths l).sum → streamBit m' q = streamBit m q) : HoldsFields m' p l := by
  induction l generalizing p with
  | nil => trivial
  | cons x l ih =>
    obtain ⟨v, n⟩ := x
    rw [widths_sum_cons] at hq
    refine ⟨(readBits_congr _ _ _ _ fun i hi => hq _ (by omega)).trans h.1, ih h.2 fun q h1 => hq q ?_⟩
    rw [← Nat.add_assoc]; exact h1

/-- What a run of writes on an open cursor with room leaves: the parameters, the bits behind the cursor, the fields at
the cursor, and the cursor past them. -/
structure Written (l : List (Word × Nat)) (s t : State) : Prop where
  cfg : t.cfg = s.cfg
  wc : t.wc = { s.wc with pos := s.wc.pos + (widths l).sum }
  behind : ∀ q, q < s.wc.pos → streamBit t.obuf q = streamBit s.obuf q
  fields : HoldsFields t.obuf s.wc.pos l

/-- A width of the host's is what ARG0 holds. -/
theorem width_toNat {n : Nat} (h : n ≤ 32) : (BitVec.ofNat 32 n).toNat = n := by
  rw [BitVec.toNat_ofNat]; omega

theorem writeSeq_cons_of_exec {v : Word} {n : Nat} {l : List (Word × Nat)} {s t : State}
    (h : exec .wrbits { s with arg0 := BitVec.ofNat 32 n, arg1 := v } = .next t) :
    writeSeq ((v, n) :: l) s = writeSeq l t := by
  rw [writeSeq, h, nextOr]

theorem readSeq_cons_of_exec {n : Nat} {l : List Nat} {s t : State}
    (h : exec .rdbits { s with arg0 := BitVec.ofNat 32 n } = .next t) :
    (readSeq (n :: l) s).1 = t.res0 :: (readSeq l t).1 := by
  rw [readSeq, h, nextOr]

/-- One write of the host's, where there is room: the field stands at the cursor, which moves past it. -/
theorem writeSeq_cons {v : Word} {n : Nat} {s : State} (hopen : s.wc.isOpen = true) (hwidth : 1 ≤ n ∧ n ≤ 32)
    (hroom : s.wc.pos + n ≤ 8 * s.wc.cap) :
    ∃ t : State, (∀ l, writeSeq ((v, n) :: l) s = writeSeq l t) ∧ t.cfg = s.cfg ∧
      t.wc = { s.wc with pos := s.wc.pos + n } ∧ t.obuf = putBits s.obuf s.wc.pos v.toNat n := by
  have hx := exec_wrbits_fits (s := { s with arg0 := BitVec.ofNat 32 n, arg1 := v }) hopen
  simp only [width_toNat hwidth.2] at hx
  exact ⟨_, fun l => writeSeq_cons_of_exec (hx hwidth hroom), rfl, rfl, rfl⟩

/-- One read of the host's, where the bits are within the capacity. -/
theorem readSeq_cons {n : Nat} {s : State} (hopen : s.rc.isOpen = true) (hwidth : 1 ≤ n ∧ n ≤ 32)
    (hroom : s.rc.pos + n ≤ 8 * s.rc.cap) :
    ∃ t : State, (∀ l, (readSeq (n :: l) s).1 = BitVec.ofNat 32 (readBits s.ibuf s.rc.pos n) :: (readSeq l t).1) ∧
      t.rc = { s.rc with pos := s.rc.pos + n } ∧ t.ibuf = s.ibuf := by
  have hx := exec_rdbits_fits (s := { s with arg0 := BitVec.ofNat 32 n }) hopen
  simp only [width_toNat hwidth.2] at hx
  exact ⟨_, fun l => readSeq_cons_of_exec (hx hwidth hroom), rfl, rfl⟩

/-- A later write leaves the bits behind it, so each field stays as it was written. -/
theorem writeSeq_written {l : List (Word × Nat)} {s : State} (hopen : s.wc.isOpen = true) (hl : WidthsOk l)
    (hroom : s.wc.pos + (widths l).sum ≤ 8 * s.wc.cap) : Written l s (writeSeq l s) := by
  induction l generalizing s with
  | nil => exact ⟨rfl, rfl, fun _ _ => rfl, trivial⟩
  | cons x l ih =>
    obtain ⟨v, n⟩ := x
    obtain ⟨hwidth, hl⟩ := List.forall_mem_cons.1 hl
    rw [widths_sum_cons] at hroom
    obtain ⟨t, hstep, hcfg, hwc, hobuf⟩ := writeSeq_cons (v := v) hopen hwidth (by omega)
    obtain ⟨ihcfg, ihwc, ihbehind, ihfields⟩ := @ih t (by rw [hwc]; exact hopen) hl (by rw [hwc]; simp only; omega)
    rw [hwc] at ihwc ihbehind ihfields
    rw [hobuf] at ihbehind
    rw [hstep]
    refine ⟨ihcfg.trans hcfg, ?_, fun q hq => ?_, ?_, ihfields⟩
    · rw [ihwc, widths_sum_cons, ← Nat.add_assoc]
    · rw [ihbehind q (Nat.lt_add_right n hq), streamBit_putBits, if_neg (by omega)]
    · rw [readBits_congr _ _ _ _ fun i hi => ihbehind (s.wc.pos + i) (Nat.add_lt_add_left hi _)]
      exact readBits_putBits _ _ _ _

theorem readSeq_holdsFields {l : List (Word × Nat)} {s : State} (hopen : s.rc.isOpen = true) (hl : WidthsOk l)
    (hroom : s.rc.pos + (widths l).sum ≤ 8 * s.rc.cap) (h : HoldsFields s.ibuf s.rc.pos l) :
    (readSeq (widths l) s).1 = l.map (fun x => BitVec.ofNat 32 (x.1.toNat % 2 ^ x.2)) := by
  induction l generalizing s with
  | nil => rfl
  | cons x l ih =>
    obtain ⟨v, n⟩ := x
    obtain ⟨hwidth, hl⟩ := List.forall_mem_cons.1 hl
    obtain ⟨hfield, hrest⟩ := h
    rw [widths_sum_cons] at hroom
    obtain ⟨t, hstep, hrc, hibuf⟩ := readSeq_cons hopen hwidth (by omega)
    have htail := @ih t (by rw [hrc]; exact hopen) hl (by rw [hrc]; simp only; omega) (by rw [hrc, hibuf]; exact hrest)
    rw [widths, List.map_cons, hstep, hfield, htail, List.map_cons]

theorem nextOr_wcinit {s : State} (h : s.arg0.toNat ≤ s.cfg.obufCap) :
    (nextOr (exec .wcinit s) s).cfg = s.cfg ∧
      (nextOr (exec .wcinit s) s).wc = { isOpen := true, cap := s.arg0.toNat, pos := 0, ovf := false } := by
  rw [exec_wcinit_fits h]
  exact ⟨rfl, rfl⟩

theorem nextOr_flush {s : State} (h : s.wc.isOpen = true) :
    (nextOr (exec .flush s) s).cfg = s.cfg ∧ (nextOr (exec .flush s) s).obuf = (flushBits s.wstream).buf := by
  rw [exec_flush_open h]
  exact ⟨rfl, rfl⟩

theorem nextOr_rcinit {s : State} (h : s.ilen.toNat ≤ s.cfg.ibufCap) :
    (nextOr (exec .rcinit s) s).ibuf = s.ibuf ∧
      (nextOr (exec .rcinit s) s).rc = { isOpen := true, cap := s.ilen.toNat, pos := 0 } := by
  rw [rcinitOpens s, if_neg (Nat.not_lt.2 h)]
  exact ⟨rfl, rfl⟩

/-- FLUSH touches no bit behind the cursor, so no field written there. -/
theorem holdsFields_flush {w : WStream} {l : List (Word × Nat)} (h : HoldsFields w.buf 0 l)
    (hpos : (widths l).sum ≤ w.wc.pos) : HoldsFields (flushBits w).buf 0 l :=
  h.congr fun q hq => by rw [streamBit_flushBits, if_neg (by omega)]

/-- Settles O20: WCINIT opens a cursor with room, the writes leave their fields, FLUSH keeps them, and the reads from a
fresh RC find them in turn. -/
theorem bitsRoundTrip : Obligations.BitsRoundTrip := by
  intro s c l hc hob hib hl hsum s0 a b f r0 r
  have hcap : (BitVec.ofNat 32 c).toNat = c := by rw [BitVec.toNat_ofNat, Nat.mod_eq_of_lt hc]
  obtain ⟨hacfg, hawc⟩ : a.cfg = s.cfg ∧ a.wc = { isOpen := true, cap := c, pos := 0, ovf := false } := by
    have h := nextOr_wcinit (s := s0) (hcap.trans_le hob)
    rwa [hcap] at h
  have hb : Written l a b := writeSeq_written (by rw [hawc]) hl (by rw [hawc]; simpa using hsum)
  have hbwc := hb.wc
  have hfields := hb.fields
  rw [hawc] at hbwc hfields
  obtain ⟨hfcfg, hfobuf⟩ := nextOr_flush (s := b) (by rw [hbwc])
  obtain ⟨hribuf, hrrc⟩ := nextOr_rcinit (s := r0) (by
    rw [hcap]; exact hib.trans_eq (congrArg _ (hfcfg.trans (hb.cfg.trans hacfg)).symm))
  rw [hcap] at hrrc
  refine ⟨by rw [hbwc], readSeq_holdsFields (by rw [hrrc]) hl (by rw [hrrc]; simpa using hsum) ?_⟩
  rw [hribuf.trans hfobuf, hrrc]
  exact holdsFields_flush hfields (by simp [State.wstream, hbwc])

end Sys2Proof.Machine
end

section
/-! PROOFS. The packer (41_alphabet_pack7.md): what PACK7 and UNPACK7 answer, in terms of the septets of a text and
of the characters of a run of septets, and what each does on each of its branches. -/

namespace Sys2Proof.Machine

open Host (Outcome)
open Wire

/-! ### The shared shape of the operations, branch by branch -/

section
variable {α : Type} {op : Running} {refused : Bool} {r : Except Kind α} {out : α → State} {s : State}

theorem settle_refused (h : refused = true) : settle op refused r out s = raise op .fault s := if_pos h

theorem settle_error {k : Kind} (h : refused = false) (hr : r = .error k) :
    settle op refused r out s = raise op k s := by
  subst h hr; rfl

theorem settle_ok {a : α} (h : refused = false) (hr : r = .ok a) :
    settle op refused r out s = finish .ok (out a) := by
  subst h hr; rfl

end

/-- The operand check PACK7 and UNPACK7 share (R91). -/
theorem capOperands_ok {s : State} : (ilenTooLong s || capTooLarge s s.arg1) = false ↔
    s.ilen.toNat ≤ s.cfg.ibufCap ∧ s.arg1.toNat ≤ s.cfg.obufCap := by
  rw [Bool.or_eq_false_iff, ilenTooLong_eq_false, capTooLarge_eq_false]

theorem capOperands_refused {s : State} (h : s.cfg.ibufCap < s.ilen.toNat ∨ s.cfg.obufCap < s.arg1.toNat) :
    (ilenTooLong s || capTooLarge s s.arg1) = true := by
  simpa [ilenTooLong, capTooLarge] using h

/-! ### PACK7 (R165) -/

/-- `PACK7` answers the septets of the text, packed, or OVERFLOW where they do not all fit. -/
theorem pack7_eq (c : Config) (text : List Byte) (cap : Nat) :
    pack7 c text cap = if 8 * cap < 7 * (septetsOf c text).length then .error .overflow
      else .ok (packSeptets (septetsOf c text), (septetsOf c text).length) := by
  rw [pack7, packUnits_eq _ _ _ _ (by simp), List.nil_append, ← septetsOf]
  by_cases h : 8 * cap < 7 * (septetsOf c text).length
  · rw [if_pos h, if_pos h]
  · rw [if_neg h, if_neg h]

/-- The state PACK7 ends OK in. -/
def packed (s : State) : State :=
  finish .ok { putOutput s.arg1.toNat (packSeptets (septetsOf s.cfg (input s))) (start s) with
    olen := toWord (ceil8 (7 * (septetsOf s.cfg (input s)).length))
    res0 := toWord (septetsOf s.cfg (input s)).length }

theorem exec_pack7_refused {s : State} (h : s.cfg.ibufCap < s.ilen.toNat ∨ s.cfg.obufCap < s.arg1.toNat) :
    exec .pack7 s = .next (raise .pack7 .fault (start s)) :=
  (execPack7_eq s).trans (congrArg _ (settle_refused (capOperands_refused h)))

section
variable {s : State} (hi : s.ilen.toNat ≤ s.cfg.ibufCap) (hc : s.arg1.toNat ≤ s.cfg.obufCap)
include hi hc

theorem exec_pack7_overflow (h : 8 * s.arg1.toNat < 7 * (septetsOf s.cfg (input s)).length) :
    exec .pack7 s = .next (raise .pack7 .overflow (start s)) :=
  (execPack7_eq s).trans (congrArg _ (settle_error (capOperands_ok.2 ⟨hi, hc⟩) ((pack7_eq _ _ _).trans (if_pos h))))

theorem exec_pack7_fits (h : 7 * (septetsOf s.cfg (input s)).length ≤ 8 * s.arg1.toNat) :
    exec .pack7 s = .next (packed s) := by
  refine (execPack7_eq s).trans (congrArg _ ((settle_ok (capOperands_ok.2 ⟨hi, hc⟩)
    ((pack7_eq _ _ _).trans (if_neg (Nat.not_lt.2 h)))).trans ?_))
  simp only [packSeptets_length, packed]

end

/-- Where PACK7 ended OK, it took none of its refusals. -/
theorem exec_pack7_ok {s t : State} (h : exec .pack7 s = .next t) (hok : t.status = 0) :
    t = packed s ∧ s.ilen.toNat ≤ s.cfg.ibufCap ∧ s.arg1.toNat ≤ s.cfg.obufCap ∧
      7 * (septetsOf s.cfg (input s)).length ≤ 8 * s.arg1.toNat := by
  have not_raised : ∀ k, k ≠ .ok → exec .pack7 s ≠ .next (raise .pack7 k (start s)) := by
    intro k hk he
    obtain rfl : t = raise .pack7 k (start s) := Outcome.next.inj (h.symm.trans he)
    exact hk (kindCode_eq_zero.1 hok)
  obtain ⟨hi, hc⟩ : s.ilen.toNat ≤ s.cfg.ibufCap ∧ s.arg1.toNat ≤ s.cfg.obufCap := by
    by_contra hr
    exact not_raised .fault (by decide) (exec_pack7_refused (by omega))
  have hfit : 7 * (septetsOf s.cfg (input s)).length ≤ 8 * s.arg1.toNat := by
    by_contra hr
    exact not_raised .overflow (by decide) (exec_pack7_overflow hi hc (Nat.not_le.1 hr))
  exact ⟨Outcome.next.inj (h.symm.trans (exec_pack7_fits hi hc hfit)), hi, hc, hfit⟩

/-- The octets PACK7 puts out. -/
theorem packed_output {s : State} (hc : s.arg1.toNat ≤ s.cfg.obufCap)
    (h : 7 * (septetsOf s.cfg (input s)).length ≤ 8 * s.arg1.toNat) :
    OutputIs (packSeptets (septetsOf s.cfg (input s))) (packed s) := by
  have hlen : (packSeptets (septetsOf s.cfg (input s))).length ≤ s.arg1.toNat := by
    rw [packSeptets_length]; exact ceil8_le _ _ h
  exact (memRead_putOutput _ _ (start s)).1 (le_min hlen (hlen.trans hc))

/-- Stream bit `k` of an output of packed septets (R63). -/
theorem OutputIs.packSeptets_bit {us : List Septet} {t : State} (h : OutputIs (packSeptets us) t) {k : Nat}
    (hk : k < 8 * ceil8 (7 * us.length)) :
    (memRead t.obuf (k / 8)).getLsbD (k % 8) = (us.getD (k / 7) 0).getLsbD (k % 7) := by
  rw [h (k / 8) (by rw [packSeptets_length]; omega), Machine.packSeptets_bit us k hk]

/-- Settles O21: the answer is `packed`, and a bit of its output is that bit of its septet, or of none. -/
theorem pack7Packs : Obligations.Pack7Packs := by
  intro s hi hc hfit
  have hout := packed_output hc hfit
  have hceil := (ceil8_mul (7 * (septetsOf s.cfg (input s)).length)).1
  refine ⟨packed s, exec_pack7_fits hi hc hfit, rfl, fun q i hq hi7 => ?_, fun k hk hk8 => ?_,
    (memRead_putOutput _ _ (start s)).2⟩
  · rw [hout.packSeptets_bit (by omega), show (7 * q + i) / 7 = q by omega, show (7 * q + i) % 7 = i by omega]
  · rw [hout.packSeptets_bit hk8, List.getD_eq_default _ _ (by omega)]
    exact BitVec.getLsbD_zero

/-- Settles O22: the two refusals of PACK7 are raises. -/
theorem pack7Refuses : Obligations.Pack7Refuses := fun _ =>
  ⟨fun h => ⟨_, exec_pack7_refused h, raise_raised _ _ _⟩,
    fun hi hc h => ⟨_, exec_pack7_overflow hi hc h, raise_raised _ _ _⟩⟩

/-! ### The characters of a run of septets (R166) -/

theorem unescape_escape (c : Config) (v : Septet) (us : List Septet) :
    unescape c (27 :: v :: us) = ext7to8At c v :: unescape c us := if_pos rfl

theorem unescape_cons {u : Septet} (h : u ≠ 27) (c : Config) (us : List Septet) :
    unescape c (u :: us) = a7to8At c u :: unescape c us := by
  cases us <;> exact if_neg h

/-- The septets still to be read, with the escape that `t` remembers put back before them. -/
def TextWork.pending (t : TextWork) (us : List Septet) : List Septet := if t.esc then 27 :: us else us

theorem takeSeptets_cons (c : Config) (u : Septet) (us : List Septet) (t : TextWork) :
    takeSeptets c (u :: us) t = (takeSeptet c t u).bind (takeSeptets c us) := by
  rw [takeSeptets]
  cases takeSeptet c t u <;> rfl

/-- The end of the loop puts the placeholder of a lone escape, if there is room. -/
theorem endText_eq (c : Config) (t : TextWork) (h : t.out.length ≤ t.cap) :
    endText c t = if t.cap < (t.out ++ unescape c (t.pending [])).length then .error .overflow
      else .ok (t.out ++ unescape c (t.pending [])) := by
  obtain ⟨esc, out, cap⟩ := t
  cases esc with
  | false => simpa [endText, TextWork.pending, unescape] using h
  | true =>
    by_cases hroom : cap ≤ out.length
    · simp [endText, TextWork.pending, unescape, putChar_eq, hroom, Nat.lt_succ_of_le hroom]
    · simp [endText, TextWork.pending, unescape, putChar_eq, hroom, show ¬ cap < out.length + 1 by omega]

/-- One septet either is an escape to remember, or puts the first of the characters still to come. -/
theorem takeSeptet_pending (c : Config) (t : TextWork) (u : Septet) :
    (takeSeptet c t u = .ok { t with esc := true } ∧ ∀ us, t.pending (u :: us) = 27 :: us) ∨
    ∃ b, takeSeptet c t u = putChar b { t with esc := false } ∧
      ∀ us, unescape c (t.pending (u :: us)) = b :: unescape c us := by
  obtain ⟨esc, out, cap⟩ := t
  cases esc with
  | true => exact .inr ⟨ext7to8At c u, rfl, unescape_escape c u⟩
  | false =>
    by_cases hu : u = 27
    · subst hu; exact .inl ⟨rfl, fun _ => rfl⟩
    · exact .inr ⟨a7to8At c u, if_neg hu, unescape_cons hu c⟩

/-- The text loop and its end, said once: the characters so far and those of the septets to come, or OVERFLOW where
they do not all fit. -/
theorem takeSeptets_endText (c : Config) (us : List Septet) (t : TextWork) (h : t.out.length ≤ t.cap) :
    (takeSeptets c us t).bind (endText c) =
      if t.cap < (t.out ++ unescape c (t.pending us)).length then .error .overflow
      else .ok (t.out ++ unescape c (t.pending us)) := by
  induction us generalizing t with
  | nil => exact endText_eq c t h
  | cons u us ih =>
    rw [takeSeptets_cons]
    obtain ⟨hstep, hpend⟩ | ⟨b, hstep, hpend⟩ := takeSeptet_pending c t u
    · rw [hstep, hpend]
      exact ih { t with esc := true } h
    · rw [hstep, hpend, putChar_eq]
      by_cases hroom : t.cap ≤ t.out.length
      · rw [if_pos hroom, if_pos (by simp; omega)]
        rfl
      · rw [if_neg hroom]
        refine (ih { t with esc := false, out := t.out ++ [b] } (by simp; omega)).trans ?_
        simp [TextWork.pending]

/-- `UNPACK7` answers the characters of the septets, FAULT where their octets are not there, or OVERFLOW where the
characters do not all fit. -/
theorem unpack7_eq (c : Config) (l : List Byte) (count cap : Nat) :
    unpack7 c l count cap = if l.length < ceil8 (7 * count) then .error .fault
      else if cap < (unescape c (septets l count)).length then .error .overflow
      else .ok (unescape c (septets l count)) := by
  have hloop := takeSeptets_endText c (septets l count) { cap := cap } (Nat.zero_le _)
  rw [unpack7, ← septets]
  refine congrArg _ (Eq.trans ?_ hloop)
  cases takeSeptets c (septets l count) { cap := cap } <;> rfl

/-! ### UNPACK7 (R166) -/

@[simp] theorem input_length (s : State) : (input s).length = s.ilen.toNat := memSlice_length _ _ _

/-- The characters UNPACK7 is asked for. -/
def characters (s : State) : List Byte := unescape s.cfg (septets (input s) s.arg0.toNat)

/-- The state UNPACK7 ends OK in. -/
def unpacked (s : State) : State :=
  finish .ok { putOutput s.arg1.toNat (characters s) (start s) with olen := toWord (characters s).length }

theorem unpack7_of_octets {s : State} (h : ceil8 (7 * s.arg0.toNat) ≤ s.ilen.toNat) :
    unpack7 s.cfg (input s) s.arg0.toNat s.arg1.toNat =
      if s.arg1.toNat < (characters s).length then .error .overflow else .ok (characters s) :=
  (unpack7_eq _ _ _ _).trans (if_neg (by rwa [input_length, Nat.not_lt]))

theorem exec_unpack7_refused {s : State} (h : s.cfg.ibufCap < s.ilen.toNat ∨ s.cfg.obufCap < s.arg1.toNat) :
    exec .unpack7 s = .next (raise .unpack7 .fault (start s)) :=
  (execUnpack7_eq s).trans (congrArg _ (settle_refused (capOperands_refused h)))

section
variable {s : State} (hi : s.ilen.toNat ≤ s.cfg.ibufCap) (hc : s.arg1.toNat ≤ s.cfg.obufCap)
include hi hc

theorem exec_unpack7_error {k : Kind} (h : unpack7 s.cfg (input s) s.arg0.toNat s.arg1.toNat = .error k) :
    exec .unpack7 s = .next (raise .unpack7 k (start s)) :=
  (execUnpack7_eq s).trans (congrArg _ (settle_error (capOperands_ok.2 ⟨hi, hc⟩) h))

theorem exec_unpack7_short (h : s.ilen.toNat < ceil8 (7 * s.arg0.toNat)) :
    exec .unpack7 s = .next (raise .unpack7 .fault (start s)) :=
  exec_unpack7_error hi hc ((unpack7_eq _ _ _ _).trans (if_pos (by rwa [input_length])))

variable (hin : ceil8 (7 * s.arg0.toNat) ≤ s.ilen.toNat)
include hin

theorem exec_unpack7_overflow (h : s.arg1.toNat < (characters s).length) :
    exec .unpack7 s = .next (raise .unpack7 .overflow (start s)) :=
  exec_unpack7_error hi hc ((unpack7_of_octets hin).trans (if_pos h))

theorem exec_unpack7_fits (h : (characters s).length ≤ s.arg1.toNat) :
    exec .unpack7 s = .next (unpacked s) :=
  (execUnpack7_eq s).trans (congrArg _ (settle_ok (capOperands_ok.2 ⟨hi, hc⟩)
    ((unpack7_of_octets hin).trans (if_neg (Nat.not_lt.2 h)))))

end

/-- The octets UNPACK7 puts out. -/
theorem unpacked_output {s : State} (hc : s.arg1.toNat ≤ s.cfg.obufCap) (h : (characters s).length ≤ s.arg1.toNat) :
    OutputIs (characters s) (unpacked s) :=
  (memRead_putOutput _ _ (start s)).1 (le_min h (h.trans hc))

/-- Settles O23: UNPACK7 by the branch it takes, in the order of R166. -/
theorem unpack7Unpacks : Obligations.Unpack7Unpacks := by
  refine fun s => ⟨fun h => ⟨raise .unpack7 .fault (start s), ?_, raise_raised _ _ _⟩,
    fun hi hc hin h => ⟨_, exec_unpack7_overflow hi hc hin h, raise_raised _ _ _⟩,
    fun hi hc hin h => ⟨unpacked s, exec_unpack7_fits hi hc hin h, rfl, unpacked_output hc h,
      (memRead_putOutput _ _ (start s)).2⟩⟩
  by_cases hr : s.cfg.ibufCap < s.ilen.toNat ∨ s.cfg.obufCap < s.arg1.toNat
  · exact exec_unpack7_refused hr
  · exact exec_unpack7_short (by omega) (by omega) (by unfold ceil8; omega)

end Sys2Proof.Machine
end

section
/-! PROOFS. The law of the packer (R167): what PACK7 wrote, UNPACK7 reads back, with every character that has no septet
replaced by the placeholder; and the default tables, which meet its condition. -/

namespace Sys2Proof.Machine

open Host (Outcome)
open Wire

/-! ### The tables (R163, R167) -/

theorem setWidth_ne_escape {x : Byte} (h : x.toNat < 128) (hx : x ≠ 27) : x.setWidth 7 ≠ (27 : Septet) := by
  bv_omega

/-- With inverse tables, the septets of one character read back as its `norm`, whatever follows them. -/
theorem unescape_charUnits {c : Config} (h : TablesInverse c) (b : Byte) (us : List Septet) :
    unescape c (charUnits c b ++ us) = Wire.norm c b :: unescape c us := by
  obtain ⟨hlow, hesc, hplace, hmapped⟩ := h
  by_cases hb : a8to7At c b = c.npc7
  · rw [charUnits, hb, if_neg (Nat.not_le.2 hlow), List.singleton_append,
      unescape_cons (setWidth_ne_escape hlow hesc), hplace, Wire.norm, if_pos hb]
  · have hinv := hmapped b hb
    rw [Wire.norm, if_neg hb, charUnits]
    by_cases h128 : 128 ≤ (a8to7At c b).toNat
    · rw [if_neg (Nat.not_lt.2 h128)] at hinv
      rw [if_pos h128, List.cons_append, List.singleton_append, unescape_escape, hinv]
    · rw [if_pos (Nat.not_le.1 h128)] at hinv
      obtain ⟨hne, hback⟩ := hinv
      rw [if_neg h128, List.singleton_append, unescape_cons (setWidth_ne_escape (Nat.not_le.1 h128) hne), hback]

/-- R167 on the septets themselves. -/
theorem unescape_septetsOf {c : Config} (h : TablesInverse c) (text : List Byte) :
    unescape c (septetsOf c text) = text.map (Wire.norm c) := by
  induction text with
  | nil => rfl
  | cons b l ih => rw [septetsOf, List.flatMap_cons, unescape_charUnits h, ← septetsOf, ih, List.map_cons]

/-- Settles O25: the 256 entries of each table, evaluated. -/
theorem defaultTables : Obligations.DefaultTables := by
  refine ⟨⟨?_, ?_, ?_, ?_⟩, ?_, ?_, ?_⟩ <;> decide +kernel

/-! ### What was packed reads back -/

theorem septets_packSeptets (us : List Septet) : septets (packSeptets us) us.length = us := by
  refine List.ext_getElem (by simp [septets]) fun q _ hq => ?_
  simp only [septets, List.getElem_map, List.getElem_range, septetAt_packSeptets us q hq]
  exact List.getD_eq_getElem us 0 hq

/-- What the host copies back is what was put out. -/
theorem OutputIs.input_looped {l : List Byte} {t : State} (h : OutputIs l t) (hlen : t.olen.toNat = l.length) :
    input t.looped = l := by
  refine List.ext_getElem (by simpa [State.looped] using hlen) fun k _ hk => ?_
  rw [← List.getD_eq_getElem _ 0 hk, ← h k hk]
  simp [input, memSlice, State.looped]

theorem toWord_toNat {n : Nat} (h : n < 2 ^ 32) : (toWord n).toNat = n := by
  simpa [toWord] using h

section
variable {s : State} (hfit : 7 * (septetsOf s.cfg (input s)).length ≤ 8 * s.arg1.toNat)
include hfit

theorem packed_olen : (packed s).olen.toNat = ceil8 (7 * (septetsOf s.cfg (input s)).length) :=
  toWord_toNat ((ceil8_le _ _ hfit).trans_lt s.arg1.isLt)

/-- The septet count fits RES0 where the octets fit a buffer below 2^31. -/
theorem packed_res0 {n : Nat} (holen : (packed s).olen.toNat ≤ n) (hn : n < 2 ^ 31) :
    (packed s).res0.toNat = (septetsOf s.cfg (input s)).length := by
  have hceil := (ceil8_mul (7 * (septetsOf s.cfg (input s)).length)).1
  rw [packed_olen hfit] at holen
  exact toWord_toNat (by omega)

theorem input_looped_packed (hc : s.arg1.toNat ≤ s.cfg.obufCap) :
    input (packed s).looped = packSeptets (septetsOf s.cfg (input s)) :=
  (packed_output hc hfit).input_looped (by rw [packed_olen hfit, packSeptets_length])

end

/-- After PACK7 the host gives its output and its septet count to UNPACK7, with the length of the text as capacity. -/
def handedBack (s : State) : State := { (packed s).looped with arg0 := (packed s).res0, arg1 := s.ilen }

/-- The septets read back from the packed octets, and the characters from the septets. -/
theorem characters_handedBack {s : State} (htables : TablesInverse s.cfg) (hc : s.arg1.toNat ≤ s.cfg.obufCap)
    (hfit : 7 * (septetsOf s.cfg (input s)).length ≤ 8 * s.arg1.toNat)
    (hcount : (packed s).res0.toNat = (septetsOf s.cfg (input s)).length) :
    characters (handedBack s) = (input s).map (Wire.norm s.cfg) := calc
  characters (handedBack s) = unescape s.cfg (septets (input (packed s).looped) (packed s).res0.toNat) := rfl
  _ = unescape s.cfg (septetsOf s.cfg (input s)) := by
    rw [input_looped_packed hfit hc, hcount, septets_packSeptets]
  _ = (input s).map (Wire.norm s.cfg) := unescape_septetsOf htables _

/-- Settles O24: PACK7 ended OK only as `packed`, whose counts fit their registers; UNPACK7 then has its octets and, as
`norm` keeps the length of the text, its room. -/
theorem textRoundTrip : Obligations.TextRoundTrip := by
  intro s t htables hexec hok hcap holen hilen
  obtain ⟨rfl, -, hc, hfit⟩ := exec_pack7_ok hexec hok
  have hcount := packed_res0 hfit holen hcap
  have hchars := characters_handedBack htables hc hfit hcount
  have hlen : (characters (handedBack s)).length = s.ilen.toNat := by
    rw [hchars, List.length_map, input_length]
  have hoctets : ceil8 (7 * (packed s).res0.toNat) ≤ (packed s).olen.toNat := by
    rw [hcount, packed_olen hfit]
  refine ⟨unpacked (handedBack s), exec_unpack7_fits (s := handedBack s) holen hilen hoctets hlen.le, rfl, ?_, ?_⟩
  · exact (congrArg toWord hlen).trans (by simp [toWord])
  · rw [← hchars]
    exact unpacked_output (s := handedBack s) hilen hlen.le

end Sys2Proof.Machine
end

section
/-! PROOFS. The escape septets as steps of the text loop (R164, R166, log 11). -/

namespace Sys2Proof.Machine

open Host (Outcome)
open Wire

theorem textStep_ok {f : TextWork → Except Kind TextWork} {s : State} {t : TextWork} (h : f s.work.text = .ok t) :
    textStep f s = { s with work := { s.work with text := t } } := by
  simp only [textStep, h]

theorem textStep_error {f : TextWork → Except Kind TextWork} {s : State} {k : Kind} (h : f s.work.text = .error k) :
    textStep f s = stopOperation k s := by
  simp only [textStep, h, stopOperation]

theorem extensionSeptet_room {t : TextWork} (h : t.out.length < t.cap) (c : Config) (e : Septet) :
    extensionSeptet c e t = .ok { t with esc := false, out := t.out ++ [ext7to8At c e] } :=
  if_neg (Nat.not_le.2 h)

theorem extensionSeptet_full {t : TextWork} (h : t.cap ≤ t.out.length) (c : Config) (e : Septet) :
    extensionSeptet c e t = .error .overflow := if_pos h

/-- The nine extension rows are one step of the text loop, each on its own septet. -/
theorem exec_extension {x : Instr × Septet × Byte} (hx : x ∈ extensions) (s : State) :
    exec x.1 s = .next (textStep (extensionSeptet s.cfg x.2.1) s) := by
  simp only [extensions, List.mem_cons, List.not_mem_nil, or_false] at hx
  rcases hx with rfl | rfl | rfl | rfl | rfl | rfl | rfl | rfl | rfl <;> rfl

/-- The default table has the nine characters (R164). -/
theorem defaultExt7to8_lookup : ∀ x ∈ extensions, defaultExt7to8.lookup x.2.1 = some x.2.2 := by decide

/-- Settles O43: the escape is one step that always succeeds, the septet after it one that asks for room. -/
theorem escapeElements : Obligations.EscapeElements := by
  refine fun s => ⟨rfl, fun x hx => ⟨fun hroom => ?_, fun hfull => ?_, defaultExt7to8_lookup x hx⟩⟩
  · exact (exec_extension hx s).trans (congrArg _ (textStep_ok (extensionSeptet_room hroom _ _)))
  · obtain ⟨hraised, hidle⟩ := stopOperation_raised .overflow s
    exact ⟨_, (exec_extension hx s).trans (congrArg _ (textStep_error (extensionSeptet_full hfull _ _))),
      hraised, hidle⟩

end Sys2Proof.Machine
end

section
/-! PROOFS. ENCADDR and DECADDR (42_address_timestamp.md R180 to R183): what each codec answers in terms of the digits
of a string and of the semi-octets of a field, and the state each operation ends in on each of its branches. -/

namespace Sys2Proof.Machine

open Host (Outcome)
open Wire

/-! ### The refusals these operations share (R91) -/

theorem ilenTooLong_eq_true {s : State} : ilenTooLong s = true ↔ s.cfg.ibufCap < s.ilen.toNat := by
  simp [ilenTooLong]

/-- An ILEN out of range and an input the codec refuses with FAULT end alike. -/
theorem settle_fault {α : Type} {op : Running} {r : Except Kind α} {out : α → State} {s u : State} {p : Prop}
    (h : s.cfg.ibufCap < s.ilen.toNat ∨ p) (hr : p → r = .error .fault) :
    settle op (ilenTooLong s) r out u = raise op .fault u := by
  by_cases hi : s.cfg.ibufCap < s.ilen.toNat
  · exact settle_refused (ilenTooLong_eq_true.2 hi)
  · exact settle_error (ilenTooLong_eq_false.2 (Nat.not_lt.1 hi)) (hr (h.resolve_left hi))

/-- An operation that ended OK took none of its refusals. -/
theorem accepted_of_ok {i : Instr} {op : Running} {s t u : State} {p : Prop}
    (hr : s.cfg.ibufCap < s.ilen.toNat ∨ ¬ p → exec i s = .next (raise op .fault u))
    (h : exec i s = .next t) (hok : t.status = 0) : s.ilen.toNat ≤ s.cfg.ibufCap ∧ p := by
  by_contra hnot
  rw [not_and_or, Nat.not_le] at hnot
  obtain rfl : t = raise op .fault u := Outcome.next.inj (h.symm.trans (hr hnot))
  exact absurd ((kindCode_eq_zero (k := .fault)).1 hok) (by decide)

/-! ### A map whose function may have no answer -/

section
variable {α β : Type} {f : α → Option β} {l : List α}

theorem mapM_eq_map {g : α → β} (h : ∀ a ∈ l, f a = some (g a)) : l.mapM f = some (l.map g) := by
  induction l with
  | nil => rfl
  | cons a l ih =>
    rw [List.mapM_cons, h a List.mem_cons_self, ih fun b hb => h b (List.mem_cons_of_mem a hb)]
    rfl

theorem mapM_eq_none {a : α} (ha : a ∈ l) (h : f a = none) : l.mapM f = none := by
  induction l with
  | nil => cases ha
  | cons b l ih =>
    rw [List.mapM_cons]
    rcases List.mem_cons.1 ha with rfl | hb
    · rw [h]; rfl
    · rw [ih hb]; cases f b <;> rfl

end

/-! ### Digits and type-of-address octets -/

theorem isDigit_iff {b : Byte} : isDigit b = true ↔ IsDigit b := decide_eq_true_iff

/-- The value of a digit character, as a character, is that character. -/
theorem digit_of_isDigit {b : Byte} (h : IsDigit b) : digit (digitVal b) = b := by
  obtain ⟨hlow, -⟩ := h
  rw [digit, digitVal, Nat.add_sub_cancel' hlow, BitVec.ofNat_toNat, BitVec.setWidth_eq]

theorem addrDigits_eq (l : List Byte) : addrDigits l = addrBody l := by
  cases l with
  | nil => rfl
  | cons b l => by_cases h : b = 0x2B <;> simp [addrDigits, isInternational, addrBody, h]

theorem toaFor_eq (l : List Byte) : toaFor l = toaOf l := by simp [toaFor, isInternational, toaOf]

/-- `TOA[6:4] = 0b001` (R182). -/
theorem toaInternational_iff (toa : Byte) : toaInternational toa = true ↔ toa.toNat / 16 % 8 = 1 := by
  rw [toaInternational, decide_eq_true_iff, ← BitVec.toNat_inj, BitVec.extractLsb'_toNat, Nat.shiftRight_eq_div_pow]
  rfl

theorem toaOperand_eq (s : State) : toaOperand s = s.arg1.setWidth 8 :=
  (BitVec.setWidth_eq_extractLsb' (by decide)).symm

/-- What the encoder's TOA puts before the digits, and the digits, are the string. -/
theorem plus_toaOf_addrBody (l : List Byte) : plus (toaOf l) ++ addrBody l = l := by
  cases l with
  | nil => rfl
  | cons b l =>
    by_cases h : b = 0x2B
    · subst h
      have htoa : toaOf (0x2B :: l) = 0x91 := if_pos rfl
      rw [htoa, addrBody, if_pos rfl]
      rfl
    · have htoa : toaOf (b :: l) = 0x81 := if_neg (by simpa using h)
      rw [htoa, addrBody, if_neg h]
      rfl

theorem addrBody_length_add_plus (l : List Byte) : (addrBody l).length + (plus (toaOf l)).length = l.length := by
  rw [Nat.add_comm, ← List.length_append, plus_toaOf_addrBody]

theorem plus_length_le (toa : Byte) : (plus toa).length ≤ 1 := by
  unfold plus; split <;> simp

/-! ### ENCADDR (R180) -/

theorem swapped_pair (a b : Nat) (ds : List Nat) :
    swapped (a :: b :: ds) = BitVec.ofNat 8 (16 * b + a) :: swapped ds := by
  have hlen : ((a :: b :: ds).length + 1) / 2 = (ds.length + 1) / 2 + 1 := by simp; omega
  rw [swapped, hlen, List.range_succ_eq_map, List.map_cons, List.map_map]
  rfl

/-- The machine's pairs are those of R180. -/
theorem semiOctets_eq_swapped (l : List Byte) : semiOctets l = swapped (l.map (fun b => b.toNat - 0x30)) := by
  fun_induction semiOctets l with
  | case1 => rfl
  | case2 a => simp [swapped, low8, digitVal]
  | case3 a b l ih => rw [ih, List.map_cons, List.map_cons, swapped_pair]; rfl

theorem addrOctets_length (l : List Byte) : (addrOctets l).length = ((addrBody l).length + 1) / 2 := by
  simp [addrOctets, swapped]

theorem addressString_iff (c : Config) (l : List Byte) :
    AddressString c l ↔ (addrDigits l).length ≤ c.addrDigitsMax ∧ (addrDigits l).all isDigit = true := by
  simp only [AddressString, addrDigits_eq, List.all_eq_true, isDigit_iff]

theorem encAddr_of_address {c : Config} {l : List Byte} (h : AddressString c l) :
    encAddr c l = .ok (addrOctets l, (addrBody l).length, toaOf l) := by
  rw [encAddr_eq, if_pos ((addressString_iff c l).1 h), semiOctets_eq_swapped, addrDigits_eq, toaFor_eq]
  rfl

theorem encAddr_of_not_address {c : Config} {l : List Byte} (h : ¬ AddressString c l) :
    encAddr c l = .error .fault := by
  rw [encAddr_eq, if_neg (mt (addressString_iff c l).2 h)]

/-- The state ENCADDR ends OK in. -/
def addrEncoded (s : State) : State :=
  finish .ok { putOutput s.cfg.obufCap (addrOctets (input s)) (start s) with
    olen := toWord (addrOctets (input s)).length
    res0 := toWord (addrBody (input s)).length
    res1 := (toaOf (input s)).setWidth 32 }

theorem exec_encaddr_of_address {s : State} (hi : s.ilen.toNat ≤ s.cfg.ibufCap) (h : AddressString s.cfg (input s)) :
    exec .encaddr s = .next (addrEncoded s) :=
  (execEncaddr_eq s).trans (congrArg _ (settle_ok (ilenTooLong_eq_false.2 hi) (encAddr_of_address h)))

theorem exec_encaddr_refused {s : State} (h : s.cfg.ibufCap < s.ilen.toNat ∨ ¬ AddressString s.cfg (input s)) :
    exec .encaddr s = .next (raise .encaddr .fault (start s)) :=
  (execEncaddr_eq s).trans (congrArg _ (settle_fault h encAddr_of_not_address))

theorem exec_encaddr_ok {s t : State} (h : exec .encaddr s = .next t) (hok : t.status = 0) :
    t = addrEncoded s ∧ s.ilen.toNat ≤ s.cfg.ibufCap ∧ AddressString s.cfg (input s) := by
  obtain ⟨hi, ha⟩ := accepted_of_ok exec_encaddr_refused h hok
  exact ⟨Outcome.next.inj (h.symm.trans (exec_encaddr_of_address hi ha)), hi, ha⟩

theorem addrEncoded_output {s : State} (hw : s.cfg.wf = true) (h : AddressString s.cfg (input s)) :
    OutputIs (addrOctets (input s)) (addrEncoded s) := by
  obtain ⟨hpdu, hobuf, -, hdig, -⟩ := Config.wf_bounds hw
  obtain ⟨hlen, -⟩ := h
  refine (memRead_putOutput _ _ (start s)).1 ?_
  rw [addrOctets_length, start_cfg]
  omega

/-- Settles O26: the two branches of ENCADDR. -/
theorem encaddrEncodes : Obligations.EncaddrEncodes := by
  refine fun s hw => ⟨fun hi h => ⟨addrEncoded s, exec_encaddr_of_address hi h, ?_, addrEncoded_output hw h⟩,
    fun h => ⟨_, exec_encaddr_refused h, raise_raised _ _ _⟩⟩
  rw [← addrOctets_length]
  rfl

/-! ### DECADDR (R181) -/

/-- Either every counted semi-octet has a digit, or one has none. -/
theorem digitChars_of_decimal {l : List Byte} {n : Nat} (h : ∀ i, i < n → nibble l i ≤ 9) :
    digitChars l n = some (digits l n) :=
  mapM_eq_map fun i hi => if_neg (Nat.not_lt.2 (h i (List.mem_range.1 hi)))

theorem digitChars_of_unmapped {l : List Byte} {n i : Nat} (hi : i < n) (h : 9 < nibble l i) :
    digitChars l n = none :=
  mapM_eq_none (List.mem_range.2 hi) (if_pos h)

@[simp] theorem digits_length (l : List Byte) (n : Nat) : (digits l n).length = n := by simp [digits]

/-- `DECADDR` in the words of R181: the refusals in their order, then `+` or nothing and the digits. -/
theorem decAddr_eq (c : Config) (l : List Byte) (cnt : Nat) (toa : Byte) :
    decAddr c l cnt toa = if l.length < (cnt + 1) / 2 then .error .fault
      else if c.addrStrCap < cnt + (plus toa).length + 1 then .error .overflow
      else (digitChars l cnt).elim (.error .unsupported) (fun ds => .ok (plus toa ++ ds)) := by
  have hplus : (if toaInternational toa then plusPrefix {} else {} : TextWork).out = plus toa := by
    unfold plus
    simp only [← toaInternational_iff]
    split <;> rfl
  simp only [decAddr, hplus]
  cases digitChars l cnt <;> rfl

/-- The string DECADDR is asked for. -/
def addrDecoded (s : State) : List Byte := plus (s.arg1.setWidth 8) ++ digits (input s) s.arg0.toNat

theorem addrDecoded_length (s : State) :
    (addrDecoded s).length = s.arg0.toNat + (plus (s.arg1.setWidth 8)).length := by
  rw [addrDecoded, List.length_append, digits_length, Nat.add_comm]

/-- The state DECADDR ends OK in. -/
def addrAnswered (s : State) : State :=
  finish .ok { putOutput s.cfg.obufCap (addrDecoded s ++ [0]) (start s) with olen := toWord (addrDecoded s).length }

theorem exec_decaddr_refused {s : State} (h : s.cfg.ibufCap < s.ilen.toNat ∨ s.ilen.toNat < (s.arg0.toNat + 1) / 2) :
    exec .decaddr s = .next (raise .decaddr .fault (start s)) :=
  (execDecaddr_eq s).trans (congrArg _ (settle_fault h fun hshort => if_pos (by rwa [input_length])))

/-- Past the first refusal. -/
theorem decAddr_of_octets {s : State} (h : (s.arg0.toNat + 1) / 2 ≤ s.ilen.toNat) :
    decAddr s.cfg (input s) s.arg0.toNat (toaOperand s) =
      if s.cfg.addrStrCap < (addrDecoded s).length + 1 then .error .overflow
      else (digitChars (input s) s.arg0.toNat).elim (.error .unsupported)
        (fun ds => .ok (plus (s.arg1.setWidth 8) ++ ds)) := by
  rw [decAddr_eq, if_neg (by rwa [input_length, Nat.not_lt]), toaOperand_eq, addrDecoded_length]

section
variable {s : State} (hi : s.ilen.toNat ≤ s.cfg.ibufCap)
include hi

theorem exec_decaddr_error {k : Kind} (h : decAddr s.cfg (input s) s.arg0.toNat (toaOperand s) = .error k) :
    exec .decaddr s = .next (raise .decaddr k (start s)) :=
  (execDecaddr_eq s).trans (congrArg _ (settle_error (ilenTooLong_eq_false.2 hi) h))

variable (hin : (s.arg0.toNat + 1) / 2 ≤ s.ilen.toNat)
include hin

theorem exec_decaddr_overflow (h : s.cfg.addrStrCap < (addrDecoded s).length + 1) :
    exec .decaddr s = .next (raise .decaddr .overflow (start s)) :=
  exec_decaddr_error hi ((decAddr_of_octets hin).trans (if_pos h))

variable (hstr : (addrDecoded s).length + 1 ≤ s.cfg.addrStrCap)
include hstr

theorem exec_decaddr_unmapped {i : Nat} (hcount : i < s.arg0.toNat) (h : 9 < nibble (input s) i) :
    exec .decaddr s = .next (raise .decaddr .unsupported (start s)) := by
  refine exec_decaddr_error hi ((decAddr_of_octets hin).trans ?_)
  rw [if_neg (Nat.not_lt.2 hstr), digitChars_of_unmapped hcount h, Option.elim_none]

theorem exec_decaddr_decimal (h : ∀ i, i < s.arg0.toNat → nibble (input s) i ≤ 9) :
    exec .decaddr s = .next (addrAnswered s) := by
  refine (execDecaddr_eq s).trans (congrArg _ (settle_ok (ilenTooLong_eq_false.2 hi)
    ((decAddr_of_octets hin).trans ?_)))
  rw [if_neg (Nat.not_lt.2 hstr), digitChars_of_decimal h]
  rfl

end

theorem addrAnswered_output {s : State} (hw : s.cfg.wf = true)
    (hstr : (addrDecoded s).length + 1 ≤ s.cfg.addrStrCap) :
    OutputIs (addrDecoded s ++ [0]) (addrAnswered s) := by
  obtain ⟨-, -, -, -, hobuf, -⟩ := Config.wf_bounds hw
  refine (memRead_putOutput _ _ (start s)).1 ?_
  rw [List.length_append, List.length_singleton, start_cfg, min_self]
  exact hstr.trans hobuf

/-- Settles O27: DECADDR by the branch it takes, in the order of R181. -/
theorem decaddrDecodes : Obligations.DecaddrDecodes := by
  intro s hw
  rw [← addrDecoded_length]
  refine ⟨fun h => ⟨_, exec_decaddr_refused h, raise_raised _ _ _⟩,
    fun hi hin h => ⟨_, exec_decaddr_overflow hi hin h, raise_raised _ _ _⟩,
    fun hi hin hstr => ⟨?_, fun h =>
      ⟨addrAnswered s, exec_decaddr_decimal hi hin hstr h, rfl, addrAnswered_output hw hstr⟩⟩⟩
  rintro ⟨i, hcount, h⟩
  exact ⟨_, exec_decaddr_unmapped hi hin hstr hcount h, raise_raised _ _ _⟩

/-! ### What ENCADDR wrote reads back (R183) -/

theorem nibble_cons (b : Byte) (l : List Byte) (i : Nat) : nibble (b :: l) (i + 2) = nibble l i := by
  simp only [nibble, Nat.add_mod_right, Nat.add_div_right i Nat.two_pos, List.getD_cons_succ]

/-- The two semi-octets of an octet made as a pair (R64). -/
theorem pair_nibbles {a b : Nat} (ha : a < 16) (hb : b < 16) :
    (low8 (16 * b + a)).toNat % 16 = a ∧ (low8 (16 * b + a)).toNat / 16 = b := by
  rw [low8, BitVec.toNat_ofNat]
  omega

theorem digitVal_lt {b : Byte} (h : IsDigit b) : digitVal b < 10 := by
  obtain ⟨-, hhigh⟩ := h
  unfold digitVal
  omega

/-- Semi-octet `i` is the value of digit `i`. -/
theorem nibble_semiOctets {l : List Byte} (h : ∀ b ∈ l, IsDigit b) (i : Nat) (hi : i < l.length) :
    nibble (semiOctets l) i = digitVal l[i] := by
  fun_induction semiOctets l generalizing i with
  | case1 => cases hi
  | case2 a =>
    have ha := digitVal_lt (h a (by simp))
    obtain rfl : i = 0 := by simpa using hi
    exact (pair_nibbles (by omega) (by decide)).1
  | case3 a b l ih =>
    have ha := digitVal_lt (h a (by simp))
    have hb := digitVal_lt (h b (by simp))
    obtain ⟨hlow, hhigh⟩ := pair_nibbles (show digitVal a < 16 by omega) (show digitVal b < 16 by omega)
    match i with
    | 0 => exact hlow
    | 1 => exact hhigh
    | i + 2 =>
      rw [nibble_cons]
      exact ih (fun c hc => h c (by simp [hc])) i (by simpa using hi)

theorem addrOctets_eq_semiOctets (l : List Byte) : addrOctets l = semiOctets (addrBody l) :=
  (semiOctets_eq_swapped _).symm

section
variable {c : Config} {l : List Byte} (h : AddressString c l)
include h

theorem nibble_addrOctets_le (i : Nat) (hi : i < (addrBody l).length) : nibble (addrOctets l) i ≤ 9 := by
  obtain ⟨-, hdig⟩ := h
  rw [addrOctets_eq_semiOctets, nibble_semiOctets hdig i hi]
  exact Nat.le_of_lt_succ (digitVal_lt (hdig _ (List.getElem_mem hi)))

theorem digits_addrOctets : digits (addrOctets l) (addrBody l).length = addrBody l := by
  obtain ⟨-, hdig⟩ := h
  refine List.ext_getElem (digits_length _ _) fun i _ hi => ?_
  simp only [digits, List.getElem_map, List.getElem_range, addrOctets_eq_semiOctets, nibble_semiOctets hdig i hi]
  exact digit_of_isDigit (hdig _ (List.getElem_mem hi))

end

/-- After ENCADDR the host gives its octets, its digit count and its TOA to DECADDR. -/
def addrHandedBack (s : State) : State :=
  { (addrEncoded s).looped with arg0 := (addrEncoded s).res0, arg1 := (addrEncoded s).res1 }

section
variable {s : State} (hw : s.cfg.wf = true) (h : AddressString s.cfg (input s))
include hw h

theorem addrBody_length_lt : (addrBody (input s)).length < 2 ^ 32 := by
  obtain ⟨-, -, -, hdig, -⟩ := Config.wf_bounds hw
  obtain ⟨hlen, -⟩ := h
  omega

theorem addrHandedBack_arg0 : (addrHandedBack s).arg0.toNat = (addrBody (input s)).length :=
  toWord_toNat (addrBody_length_lt hw h)

theorem addrHandedBack_ilen : (addrHandedBack s).ilen.toNat = (addrOctets (input s)).length := by
  have hlt := addrBody_length_lt hw h
  exact toWord_toNat (by rw [addrOctets_length]; omega)

theorem input_addrHandedBack : input (addrHandedBack s) = addrOctets (input s) :=
  (addrEncoded_output hw h).input_looped (addrHandedBack_ilen hw h)

/-- The string DECADDR is then asked for is the one ENCADDR was given. -/
theorem addrDecoded_addrHandedBack : addrDecoded (addrHandedBack s) = input s := by
  have htoa : (addrHandedBack s).arg1.setWidth 8 = toaOf (input s) := BitVec.setWidth_setWidth_of_le _ (by decide)
  rw [addrDecoded, htoa, input_addrHandedBack hw h, addrHandedBack_arg0 hw h, digits_addrOctets h,
    plus_toaOf_addrBody]

end

/-- Settles O28: ENCADDR ended OK only on an address string, whose semi-octets DECADDR reads back as its digits and
whose TOA as its `+`. -/
theorem addressRoundTrip : Obligations.AddressRoundTrip := by
  intro s t hw hexec hok
  obtain ⟨rfl, hi, h⟩ := exec_encaddr_ok hexec hok
  have hlen := addrBody_length_add_plus (input s)
  rw [input_length] at hlen
  refine ⟨fun hstr => ?_, fun hmax hcap => ?_⟩
  · have hback := addrDecoded_addrHandedBack hw h
    have harg0 := addrHandedBack_arg0 hw h
    have hilen := addrHandedBack_ilen hw h
    rw [addrOctets_length] at hilen
    have hfits : (addrDecoded (addrHandedBack s)).length + 1 ≤ (addrHandedBack s).cfg.addrStrCap := by
      rw [hback, input_length]; exact hstr
    refine ⟨addrAnswered (addrHandedBack s), exec_decaddr_decimal (s := addrHandedBack s) ?_ (by omega) hfits ?_,
      rfl, ?_, ?_⟩
    · exact hilen.trans_le ((by omega : _ ≤ s.ilen.toNat).trans hi)
    · rw [harg0, input_addrHandedBack hw h]
      exact nibble_addrOctets_le h
    · exact (congrArg toWord ((congrArg List.length hback).trans (input_length s))).trans (by simp [toWord])
    · rw [← hback]
      exact addrAnswered_output (s := addrHandedBack s) hw hfits
  · obtain ⟨hdig, -⟩ := h
    have hplus := plus_length_le (toaOf (input s))
    omega

end Sys2Proof.Machine
end

section
/-! PROOFS. ENCTS and DECTS (42_address_timestamp.md R184 to R187): what each codec answers on every string and on every
field, the state each operation ends in, and the law of R185. -/

namespace Sys2Proof.Machine

open Host (Outcome)
open Wire

/-! ### ENCTS (R184) -/

/-- The field at position `k` as a pair, tens in the low nibble. -/
def tsPairValue (l : List Byte) (k : Nat) : Nat := 16 * digitVal (l.getD (k + 1) 0) + digitVal (l.getD k 0)

/-- The seven fields are digits (R186). -/
def TsDigits (l : List Byte) : Prop := ∀ k ∈ tsPositions, IsDigit (l.getD k 0) ∧ IsDigit (l.getD (k + 1) 0)

theorem tsPair_of_digits {l : List Byte} {k : Nat} (h : IsDigit (l.getD k 0) ∧ IsDigit (l.getD (k + 1) 0)) :
    tsPair l k = some (tsPairValue l k) :=
  if_pos (by simpa only [Bool.and_eq_true, isDigit_iff] using h)

theorem tsPair_of_not_digits {l : List Byte} {k : Nat} (h : ¬ (IsDigit (l.getD k 0) ∧ IsDigit (l.getD (k + 1) 0))) :
    tsPair l k = none :=
  if_neg (by simpa only [Bool.and_eq_true, isDigit_iff] using h)

theorem tsPairs_of_digits {l : List Byte} (h : TsDigits l) :
    tsPositions.mapM (tsPair l) = some (tsPositions.map (tsPairValue l)) :=
  mapM_eq_map fun k hk => tsPair_of_digits (h k hk)

theorem tsPairs_of_not_digits {l : List Byte} (h : ¬ TsDigits l) : tsPositions.mapM (tsPair l) = none := by
  unfold TsDigits at h
  push Not at h
  obtain ⟨k, hk, hnot⟩ := h
  exact mapM_eq_none hk (tsPair_of_not_digits (not_and.2 hnot))

theorem tsSeparators_iff {l : List Byte} : tsSeparators l = true ↔ l.getD 2 0 = 0x2F ∧ l.getD 5 0 = 0x2F ∧
    l.getD 8 0 = 0x2C ∧ l.getD 11 0 = 0x3A ∧ l.getD 14 0 = 0x3A := by
  simp only [tsSeparators, Bool.and_eq_true, decide_eq_true_eq, and_assoc]

theorem tsSign_iff {l : List Byte} : tsSign l = true ↔ l.getD 17 0 = 0x2B ∨ l.getD 17 0 = 0x2D := by
  simp only [tsSign, Bool.or_eq_true, decide_eq_true_eq]

/-- The tens digit of the zone fits three bits (R187). -/
theorem zoneTens_lt_iff {l : List Byte} (h : TsDigits l) :
    tsPairValue l 18 % 16 < 8 ↔ (l.getD 18 0).toNat < 0x38 := by
  obtain ⟨hlow, hhigh⟩ := (h 18 (by decide)).1
  unfold tsPairValue digitVal
  omega

/-- A string ENCTS accepts, by the tests the machine makes. -/
theorem timestampString_iff {l : List Byte} : TimestampString l ↔ l.length = 20 ∧ tsSeparators l = true ∧
    tsSign l = true ∧ TsDigits l ∧ tsPairValue l 18 % 16 < 8 := by
  rw [tsSeparators_iff, tsSign_iff]
  constructor
  · rintro ⟨hlen, h2, h5, h8, h11, h14, hsign, hdig, hzone⟩
    exact ⟨hlen, ⟨h2, h5, h8, h11, h14⟩, hsign, hdig, (zoneTens_lt_iff hdig).2 hzone⟩
  · rintro ⟨hlen, ⟨h2, h5, h8, h11, h14⟩, hsign, hdig, hzone⟩
    exact ⟨hlen, h2, h5, h8, h11, h14, hsign, hdig, (zoneTens_lt_iff hdig).1 hzone⟩

theorem encTs_of_timestamp {l : List Byte} (h : TimestampString l) : encTs l = .ok (tsOctets l) := by
  obtain ⟨hlen, hsep, hsign, hdig, hzone⟩ := timestampString_iff.1 h
  rw [encTs, if_neg (not_not.2 hlen), if_neg (by simp [hsep]), if_neg (by simp [hsign]), tsPairs_of_digits hdig]
  exact (if_neg (Nat.not_le.2 hzone)).trans (by simp [tsPositions, tsOctets, tsPairValue, digitVal, low8])

theorem encTs_of_not_timestamp {l : List Byte} (h : ¬ TimestampString l) : encTs l = .error .fault := by
  refine ite_eq_left_iff.2 fun hlen => ite_eq_left_iff.2 fun hsep => ite_eq_left_iff.2 fun hsign => ?_
  by_cases hdig : TsDigits l
  · rw [tsPairs_of_digits hdig]
    exact ite_eq_left_iff.2 fun hzone => absurd (timestampString_iff.2
      ⟨not_not.1 hlen, by simpa using hsep, by simpa using hsign, hdig, Nat.not_le.1 hzone⟩) h
  · rw [tsPairs_of_not_digits hdig]

/-- The state ENCTS ends OK in. -/
def tsEncoded (s : State) : State :=
  finish .ok { putOutput s.cfg.obufCap (tsOctets (input s)) (start s) with olen := 7 }

theorem exec_encts_of_timestamp {s : State} (hi : s.ilen.toNat ≤ s.cfg.ibufCap) (h : TimestampString (input s)) :
    exec .encts s = .next (tsEncoded s) :=
  (execEncts_eq s).trans (congrArg _ (settle_ok (ilenTooLong_eq_false.2 hi) (encTs_of_timestamp h)))

theorem exec_encts_refused {s : State} (h : s.cfg.ibufCap < s.ilen.toNat ∨ ¬ TimestampString (input s)) :
    exec .encts s = .next (raise .encts .fault (start s)) :=
  (execEncts_eq s).trans (congrArg _ (settle_fault h encTs_of_not_timestamp))

theorem exec_encts_ok {s t : State} (h : exec .encts s = .next t) (hok : t.status = 0) :
    t = tsEncoded s ∧ s.ilen.toNat ≤ s.cfg.ibufCap ∧ TimestampString (input s) := by
  obtain ⟨hi, ha⟩ := accepted_of_ok exec_encts_refused h hok
  exact ⟨Outcome.next.inj (h.symm.trans (exec_encts_of_timestamp hi ha)), hi, ha⟩

theorem tsEncoded_output {s : State} (hw : s.cfg.wf = true) : OutputIs (tsOctets (input s)) (tsEncoded s) := by
  obtain ⟨hpdu, hobuf, -⟩ := Config.wf_bounds hw
  refine (memRead_putOutput _ _ (start s)).1 ?_
  rw [show (tsOctets (input s)).length = 7 from rfl, start_cfg]
  omega

/-- Settles O29: the two branches of ENCTS. -/
theorem enctsEncodes : Obligations.EnctsEncodes := fun s hw =>
  ⟨fun hi h => ⟨tsEncoded s, exec_encts_of_timestamp hi h, rfl, tsEncoded_output hw⟩,
    fun h => ⟨_, exec_encts_refused h, raise_raised _ _ _⟩⟩

/-! ### DECTS (R185) -/

theorem nibble_even (l : List Byte) (j : Nat) : nibble l (2 * j) = lowNibble (l.getD j 0) := by
  simp [nibble, lowNibble]

theorem nibble_odd (l : List Byte) (j : Nat) : nibble l (2 * j + 1) = tsUnits l j := by
  rw [nibble, if_neg (by omega), show (2 * j + 1) / 2 = j by omega]
  rfl

/-- The tens of a field are its even semi-octet; the zone's are taken without the sign bit. -/
theorem tsTens_eq {l : List Byte} {j : Nat} (h : j ≠ 6) : tsTens l j = nibble l (2 * j) := by
  rw [tsTens, if_neg h, nibble_even]

theorem tsTens_zone (l : List Byte) : tsTens l 6 = nibble l 12 % 8 := rfl

theorem tsDecimal_iff (l : List Byte) : tsDecimal l = true ↔ Decimal l := by
  simp only [tsDecimal, List.all_eq_true, List.mem_range, Bool.and_eq_true, decide_eq_true_eq]
  constructor
  · intro h i hi h12
    obtain ⟨j, rfl | rfl⟩ : ∃ j, i = 2 * j ∨ i = 2 * j + 1 := ⟨i / 2, by omega⟩
    · rw [← tsTens_eq (by omega)]
      exact (h j (by omega)).1
    · rw [nibble_odd]
      exact (h j (by omega)).2
  · intro h j hj
    refine ⟨?_, (nibble_odd l j).symm.trans_le (h _ (by omega) (by omega))⟩
    by_cases hz : j = 6
    · subst hz
      rw [tsTens_zone]
      omega
    · rw [tsTens_eq hz]
      exact h _ (by omega) (by omega)

/-- The two digits from octet `j` on. -/
theorem digits_drop_two (l : List Byte) (j : Nat) :
    digits (l.drop j) 2 = [digit (nibble l (2 * j)), digit (nibble l (2 * j + 1))] := by
  have hget : (l.drop j).getD 0 0 = l.getD j 0 := by simp [List.getD_eq_getElem?_getD]
  rw [nibble_even, nibble_odd, tsUnits, ← hget]
  rfl

theorem tsField_eq {l : List Byte} {j : Nat} (h : j ≠ 6) : tsField l j = digits (l.drop j) 2 := by
  rw [tsField, tsTens_eq h, ← nibble_odd, digits_drop_two]
  rfl

/-- The sign is bit 3, the top bit of the zone's first semi-octet (R187). -/
theorem zoneSign_iff (l : List Byte) : (l.getD 6 0).getLsbD 3 = true ↔ 8 ≤ nibble l 12 := by
  show (l.getD 6 0).toNat.testBit 3 = true ↔ 8 ≤ (l.getD 6 0).toNat % 16
  rw [Nat.testBit_eq_decide_div_mod_eq, decide_eq_true_iff]
  omega

theorem decTs_of_decimal (c : Config) {l : List Byte} (hlen : l.length = 7) (h : Decimal l) :
    decTs c l = tsString l := by
  have hfield : ∀ j < 6, tsField l j = digits (l.drop j) 2 := fun j hj => tsField_eq (by omega)
  rw [decTs, if_neg (not_not.2 hlen), if_neg (by simp [(tsDecimal_iff l).2 h]), hfield 0 (by decide),
    hfield 1 (by decide), hfield 2 (by decide), hfield 3 (by decide), hfield 4 (by decide), hfield 5 (by decide)]
  simp only [zoneSign_iff]
  rfl

theorem decTs_of_other (c : Config) {l : List Byte} (h : l.length ≠ 7 ∨ ¬ Decimal l) : decTs c l = c.tsUnknown :=
  ite_eq_left_iff.2 fun hlen => ite_eq_left_iff.2 fun hdec =>
    absurd ((tsDecimal_iff l).1 (by simpa using hdec)) (h.resolve_left hlen)

/-- The state DECTS ends OK in. -/
def tsDecoded (s : State) : State :=
  finish .ok { putOutput s.cfg.obufCap (decTs s.cfg (input s) ++ [0]) (start s) with
    olen := toWord (decTs s.cfg (input s)).length }

theorem exec_dects_fits {s : State} (h : s.ilen.toNat ≤ s.cfg.ibufCap) : exec .dects s = .next (tsDecoded s) :=
  (execDects_eq s).trans (congrArg _ (settle_ok (ilenTooLong_eq_false.2 h) rfl))

theorem exec_dects_tooLong {s : State} (h : s.cfg.ibufCap < s.ilen.toNat) :
    exec .dects s = .next (raise .dects .fault (start s)) :=
  (execDects_eq s).trans (congrArg _ (settle_refused (ilenTooLong_eq_true.2 h)))

theorem tsDecoded_output {s : State} (hw : s.cfg.wf = true) :
    OutputIs (decTs s.cfg (input s) ++ [0]) (tsDecoded s) := by
  obtain ⟨-, -, -, -, -, -, hobuf, -⟩ := Config.wf_bounds hw
  refine (memRead_putOutput _ _ (start s)).1 ?_
  rw [List.length_append, List.length_singleton, start_cfg, min_self]
  exact (decTs_length hw _).trans hobuf

/-- Settles O30: DECTS puts out what the codec answers, and refuses an ILEN out of range. -/
theorem dectsDecodes : Obligations.DectsDecodes := fun s hw =>
  ⟨fun hi => ⟨tsDecoded s, decTs s.cfg (input s), exec_dects_fits hi, rfl, tsDecoded_output hw,
      fun h7 hdec => decTs_of_decimal _ ((input_length s).trans h7) hdec,
      fun h => decTs_of_other _ (h.imp_left (by rw [input_length]; exact id))⟩,
    fun h => ⟨_, exec_dects_tooLong h, raise_raised _ _ _⟩⟩

/-! ### What ENCTS wrote reads back (the law of R185) -/

/-- The first semi-octet of field `j`: its tens, and in the zone's the sign in bit 3 (R187). -/
def signedTens (l : List Byte) (j : Nat) : Nat :=
  digitVal (l.getD (3 * j) 0) + if j = 6 ∧ l.getD 17 0 = 0x2D then 8 else 0

theorem signedTens_of_ne (l : List Byte) {j : Nat} (h : j ≠ 6) : signedTens l j = digitVal (l.getD (3 * j) 0) := by
  rw [signedTens, if_neg fun hs => h hs.1, Nat.add_zero]

theorem signedTens_plus {l : List Byte} (h : l.getD 17 0 = 0x2B) : signedTens l 6 = digitVal (l.getD 18 0) := by
  rw [signedTens, h, if_neg (by decide), Nat.add_zero]

theorem signedTens_minus {l : List Byte} (h : l.getD 17 0 = 0x2D) : signedTens l 6 = digitVal (l.getD 18 0) + 8 := by
  rw [signedTens, if_pos ⟨rfl, h⟩]

/-- The seven fields start at every third position. -/
theorem tsOctets_eq (l : List Byte) :
    tsOctets l = (List.range 7).map (fun j => low8 (16 * digitVal (l.getD (3 * j + 1) 0) + signedTens l j)) := by
  simp [tsOctets, List.range_succ, low8, digitVal, signedTens, Nat.add_assoc]

theorem tsOctets_getD (l : List Byte) {j : Nat} (hj : j < 7) :
    (tsOctets l).getD j 0 = low8 (16 * digitVal (l.getD (3 * j + 1) 0) + signedTens l j) := by
  rw [tsOctets_eq, List.getD_eq_getElem _ _ (by simpa using hj), List.getElem_map, List.getElem_range]

section
variable {l : List Byte} (h : TimestampString l)
include h

theorem isDigit_of_timestamp {j : Nat} (hj : j < 7) :
    IsDigit (l.getD (3 * j) 0) ∧ IsDigit (l.getD (3 * j + 1) 0) := by
  obtain ⟨-, -, -, -, -, -, -, hdig, -⟩ := h
  refine hdig _ ?_
  interval_cases j <;> decide

theorem tsSign_of_timestamp : l.getD 17 0 = 0x2B ∨ l.getD 17 0 = 0x2D := by
  obtain ⟨-, -, -, -, -, -, hsign, -⟩ := h
  exact hsign

/-- The tens of the zone leave bit 3 of their semi-octet to the sign (R187). -/
theorem zoneTens_lt : digitVal (l.getD 18 0) < 8 := by
  obtain ⟨-, -, -, -, -, -, -, -, hzone⟩ := h
  unfold digitVal
  omega

theorem signedTens_lt {j : Nat} (hj : j < 7) : signedTens l j < 16 := by
  by_cases hz : j = 6
  · subst hz
    have hzone := zoneTens_lt h
    rcases tsSign_of_timestamp h with hplus | hminus
    · rw [signedTens_plus hplus]; omega
    · rw [signedTens_minus hminus]; omega
  · have htens := digitVal_lt (isDigit_of_timestamp h hj).1
    rw [signedTens_of_ne l hz]
    omega

/-- The two semi-octets of field `j`. -/
theorem nibbles_tsOctets {j : Nat} (hj : j < 7) : nibble (tsOctets l) (2 * j) = signedTens l j ∧
    nibble (tsOctets l) (2 * j + 1) = digitVal (l.getD (3 * j + 1) 0) := by
  have hunits := digitVal_lt (isDigit_of_timestamp h hj).2
  rw [nibble_even, nibble_odd, tsUnits, tsOctets_getD l hj]
  exact pair_nibbles (signedTens_lt h hj) (by omega)

/-- The two digits of a field other than the zone. -/
theorem digits_tsOctets {j : Nat} (hj : j < 6) :
    digits ((tsOctets l).drop j) 2 = [l.getD (3 * j) 0, l.getD (3 * j + 1) 0] := by
  obtain ⟨htens, hunits⟩ := isDigit_of_timestamp h (j := j) (by omega)
  obtain ⟨heven, hodd⟩ := nibbles_tsOctets h (j := j) (by omega)
  rw [digits_drop_two, heven, hodd, signedTens_of_ne l (by omega), digit_of_isDigit htens, digit_of_isDigit hunits]

/-- The sign and the two digits of the zone. -/
theorem zone_tsOctets : (if 8 ≤ nibble (tsOctets l) 12 then 0x2D else 0x2B) = l.getD 17 0 ∧
    digit (nibble (tsOctets l) 12 % 8) = l.getD 18 0 ∧ digit (nibble (tsOctets l) 13) = l.getD 19 0 := by
  obtain ⟨htens, hunits⟩ := isDigit_of_timestamp h (j := 6) (by decide)
  obtain ⟨heven, hodd⟩ := nibbles_tsOctets h (j := 6) (by decide)
  have hzone := zoneTens_lt h
  rw [hodd, digit_of_isDigit hunits, heven]
  rcases tsSign_of_timestamp h with hplus | hminus
  · rw [signedTens_plus hplus, if_neg (by omega), Nat.mod_eq_of_lt hzone]
    exact ⟨hplus.symm, digit_of_isDigit htens, rfl⟩
  · rw [signedTens_minus hminus, if_pos (by omega), Nat.add_mod_right, Nat.mod_eq_of_lt hzone]
    exact ⟨hminus.symm, digit_of_isDigit htens, rfl⟩

theorem decimal_tsOctets : Decimal (tsOctets l) := by
  intro i hi h12
  obtain ⟨j, rfl | rfl⟩ : ∃ j, i = 2 * j ∨ i = 2 * j + 1 := ⟨i / 2, by omega⟩
  · obtain ⟨heven, -⟩ := nibbles_tsOctets h (j := j) (by omega)
    have hlt := digitVal_lt (isDigit_of_timestamp h (j := j) (by omega)).1
    rw [heven, signedTens_of_ne l (by omega)]
    omega
  · obtain ⟨-, hodd⟩ := nibbles_tsOctets h (j := j) (by omega)
    have hlt := digitVal_lt (isDigit_of_timestamp h (j := j) (by omega)).2
    omega

/-- The seven fields, the separators and the sign, in order, are the string. -/
theorem tsString_tsOctets : tsString (tsOctets l) = l := by
  obtain ⟨hsign, htens, hunits⟩ := zone_tsOctets h
  have hfield : ∀ j < 6, digits ((tsOctets l).drop j) 2 = [l.getD (3 * j) 0, l.getD (3 * j + 1) 0] :=
    fun j hj => digits_tsOctets h hj
  obtain ⟨hlen, h2, h5, h8, h11, h14, -⟩ := h
  have hchars : l = (List.range 20).map (fun k => l.getD k 0) :=
    List.ext_getElem (by simp [hlen]) fun k hk _ => by
      rw [List.getElem_map, List.getElem_range, List.getD_eq_getElem l 0 hk]
  have hrange : List.range 20 = [0, 1, 2, 3, 4, 5, 6, 7, 8, 9, 10, 11, 12, 13, 14, 15, 16, 17, 18, 19] := rfl
  refine Eq.trans ?_ hchars.symm
  rw [hrange, tsString, hsign, htens, hunits, hfield 0 (by decide), hfield 1 (by decide), hfield 2 (by decide),
    hfield 3 (by decide), hfield 4 (by decide), hfield 5 (by decide)]
  simp only [List.map_cons, h2, h5, h8, h11, h14]
  rfl

end

/-- The law of R185 on the codecs. -/
theorem decTs_tsOctets (c : Config) {l : List Byte} (h : TimestampString l) : decTs c (tsOctets l) = l :=
  (decTs_of_decimal c rfl (decimal_tsOctets h)).trans (tsString_tsOctets h)

/-- Settles O31: ENCTS ended OK only on a timestamp string, whose seven octets DECTS reads back. -/
theorem timestampRoundTrip : Obligations.TimestampRoundTrip := by
  intro s t hw hexec hok
  obtain ⟨rfl, hi, h⟩ := exec_encts_ok hexec hok
  have hback : decTs s.cfg (input (tsEncoded s).looped) = input s := by
    rw [(tsEncoded_output hw).input_looped rfl, decTs_tsOctets s.cfg h]
  obtain ⟨hlen, -⟩ := h
  refine ⟨tsDecoded (tsEncoded s).looped, exec_dects_fits (s := (tsEncoded s).looped) ?_, rfl, ?_, ?_⟩
  · rw [input_length] at hlen
    exact (show 7 ≤ s.ilen.toNat by omega).trans hi
  · exact congrArg toWord ((congrArg List.length hback).trans hlen)
  · rw [← hback]
    exact tsDecoded_output (s := (tsEncoded s).looped) hw

end Sys2Proof.Machine
end

section
/-! PROOFS. What DECGSM's shared steps answer on the octets they face (43_gsm_pdu.md R201 to R207), each said once, and
the validity-period and data-coding-scheme elements, which are those steps (log 11, log 15). -/

namespace Sys2Proof.Machine

open Wire

/-! ### Octets that are due -/

theorem need_ok {n k : Nat} {w : GsmWork} (h : w.pos + k ≤ n) : need n k w = .ok () := if_neg (Nat.not_lt.2 h)

theorem need_short {n k : Nat} {w : GsmWork} (h : n < w.pos + k) : need n k w = .error .fault := if_pos h

theorem skipOctets_ok {n k : Nat} {w : GsmWork} (h : w.pos + k ≤ n) : skipOctets n k w = .ok (advance k w) := by
  rw [skipOctets, need_ok h]

theorem skipOctets_short {n k : Nat} {w : GsmWork} (h : n < w.pos + k) : skipOctets n k w = .error .fault := by
  rw [skipOctets, need_short h]

/-! ### The validity period (R205) -/

theorem skipValidity_other {w : GsmWork} (h : w.kind ≠ 1) (n : Nat) (vpf : BitVec 2) : skipValidity n vpf w = .ok w :=
  if_neg h

theorem skipValidity_submit {w : GsmWork} (h : w.kind = 1) (n : Nat) (vpf : BitVec 2) :
    skipValidity n vpf w = skipOctets n (vpWidth vpf) w := if_pos h

/-- Each row is the validity-period step on its own flag, of the width the row gives. -/
theorem exec_validity {x : Instr × Nat}
    (hx : x ∈ [(Instr.vpfNone, 0), (.vpfRelative, 1), (.vpfEnhanced, 7), (.vpfAbsolute, 7)]) (s : State) :
    ∃ vpf, exec x.1 s = .next (gsmStep (skipValidity s.ilen.toNat vpf) s) ∧ vpWidth vpf = x.2 := by
  simp only [List.mem_cons, List.not_mem_nil, or_false] at hx
  rcases hx with rfl | rfl | rfl | rfl
  exacts [⟨0, rfl, rfl⟩, ⟨2, rfl, rfl⟩, ⟨1, rfl, rfl⟩, ⟨3, rfl, rfl⟩]

/-- Settles O40: each row is one step of DECGSM, which skips its width in a Submit and nothing in a Deliver. -/
theorem validityElements : Obligations.ValidityElements := by
  intro s x hx
  obtain ⟨vpf, hexec, hwidth⟩ := exec_validity hx s
  rw [← hwidth]
  exact ⟨fun h => exec_gsmStep_next hexec (skipValidity_other h _ _),
    fun h hin => exec_gsmStep_next hexec ((skipValidity_submit h _ _).trans (skipOctets_ok hin)),
    fun h hout => exec_gsmStep_raised hexec ((skipValidity_submit h _ _).trans (skipOctets_short hout))⟩

/-! ### The user data (R207) -/

theorem octetsAt_length {l : List Byte} {pos k : Nat} (h : pos + k ≤ l.length) : (octetsAt l pos k).length = k := by
  rw [octetsAt, List.length_take, List.length_drop]
  omega

/-- Septets are read from their own octets only. -/
theorem septets_take (l : List Byte) (n : Nat) : septets (l.take (ceil8 (7 * n))) n = septets l n := by
  refine List.map_congr_left fun q hq => BitVec.eq_of_getLsbD_eq fun i hi => ?_
  have hq := List.mem_range.1 hq
  have hceil := (ceil8_mul (7 * n)).1
  rw [septetAt, septetAt, getLsbD_septetOf _ _ hi, getLsbD_septetOf _ _ hi, List.getD_eq_getElem?_getD,
    List.getD_eq_getElem?_getD, List.getElem?_take_of_lt (by omega)]

/-- There are never more characters than septets. -/
theorem unescape_length_le (c : Config) (us : List Septet) : (unescape c us).length ≤ us.length := by
  fun_induction unescape c us with
  | case1 | case2 | case3 => exact le_rfl
  | case4 v us ih => exact Nat.succ_le_succ (ih.trans (Nat.le_succ _))
  | case5 u v us h ih => exact Nat.succ_le_succ ih

theorem septets_length (l : List Byte) (n : Nat) : (septets l n).length = n := by simp [septets]

theorem copyOctets_long {c : Config} {n : Nat} (h : c.udOctetsMax < n) (l : List Byte) (format : BitVec 2)
    (w : GsmWork) : copyOctets c l n format w = .error .overflow := if_pos h

theorem copyOctets_short {c : Config} {l : List Byte} {n : Nat} {w : GsmWork} (h : n ≤ c.udOctetsMax)
    (hin : l.length < w.pos + n) (format : BitVec 2) : copyOctets c l n format w = .error .fault := by
  rw [copyOctets, if_neg (Nat.not_lt.2 h), need_short hin]

theorem copyOctets_ok {c : Config} {l : List Byte} {n : Nat} {w : GsmWork} (h : n ≤ c.udOctetsMax)
    (hin : w.pos + n ≤ l.length) (format : BitVec 2) :
    copyOctets c l n format w = .ok { advance n w with data := octetsAt l w.pos n, format := format } := by
  rw [copyOctets, if_neg (Nat.not_lt.2 h), need_ok hin]

theorem userData_text_long {c : Config} {n : Nat} (h : c.textCharsMax < n) (l : List Byte) (w : GsmWork) :
    userData c l 0 n w = .error .overflow := if_pos h

theorem userData_text_short {c : Config} {l : List Byte} {n : Nat} {w : GsmWork} (h : n ≤ c.textCharsMax)
    (hin : l.length < w.pos + ceil8 (7 * n)) : userData c l 0 n w = .error .fault := by
  rw [userData, if_pos rfl, if_neg (Nat.not_lt.2 h)]
  simp only [need_short hin]

/-- A text within its limits always has room: it has no more characters than septets (R9). -/
theorem userData_text_ok {c : Config} {l : List Byte} {n : Nat} {w : GsmWork} (hc : c.textCharsMax ≤ c.gsmDataCap)
    (h : n ≤ c.textCharsMax) (hin : w.pos + ceil8 (7 * n) ≤ l.length) :
    userData c l 0 n w = .ok { advance (ceil8 (7 * n)) w with
      data := unescape c (septets (l.drop w.pos) n), format := 0 } := by
  have hchars := unescape_length_le c (septets (l.drop w.pos) n)
  rw [septets_length] at hchars
  have hunpack : unpack7 c (octetsAt l w.pos (ceil8 (7 * n))) n c.gsmDataCap =
      .ok (unescape c (septets (l.drop w.pos) n)) := by
    rw [unpack7_eq, octetsAt_length hin, if_neg (lt_irrefl _), octetsAt, septets_take, if_neg (by omega)]
  rw [userData, if_pos rfl, if_neg (Nat.not_lt.2 h)]
  simp only [need_ok hin, hunpack]

theorem userData_ucs2 {c : Config} (h : c.ucs2DecodeEn = true) (l : List Byte) (n : Nat) (w : GsmWork) :
    userData c l 2 n w = copyOctets c l n 3 w := by
  simp [userData, h]

theorem userData_ucs2_disabled {c : Config} (h : c.ucs2DecodeEn = false) (l : List Byte) (n : Nat) (w : GsmWork) :
    userData c l 2 n w = .error .unsupported := if_pos h

theorem userData_reserved (c : Config) (l : List Byte) (n : Nat) (w : GsmWork) :
    userData c l 3 n w = .error .unsupported := rfl

/-! ### The data-coding scheme at step 9 (log 15) -/

/-- At step 9, UDL read, a coding scheme takes the user data by its alphabet. -/
theorem alphabet_after_udl {w : GsmWork} {n : Byte} (h : w.udl = some n) (c : Config) (l : List Byte) (a : BitVec 2) :
    alphabet c l a w = userData c l a n.toNat w := by
  simp only [alphabet, h]

/-- What R9 says of the capacity of MSG.G.data. -/
theorem Config.wf_data {c : Config} (h : c.wf = true) :
    c.textCharsMax ≤ c.gsmDataCap ∧ c.udOctetsMax ≤ c.gsmDataCap ∧ c.gsmDataCap ≤ 255 := by
  simp only [Config.wf, Bool.and_eq_true, decide_eq_true_eq] at h
  omega

/-- A row of the 8-bit alphabet, or of UCS-2 where it is enabled, copies the user data in its format. -/
theorem exec_octetCoding {x : Instr × BitVec 2}
    (hx : x ∈ [(Instr.dcsG08bit, (1 : BitVec 2)), (.dcsGF8bit, 1), (.dcsG0Ucs2, 3)]) (s : State) :
    ∃ a, exec x.1 s = .next (gsmStep (alphabet s.cfg (input s) a) s) ∧
      (x.2 = 3 → a = 2) ∧ ((x.2 = 3 → s.cfg.ucs2DecodeEn = true) →
        ∀ n w, userData s.cfg (input s) a n w = copyOctets s.cfg (input s) n x.2 w) := by
  simp only [List.mem_cons, List.not_mem_nil, or_false] at hx
  rcases hx with rfl | rfl | rfl
  · exact ⟨1, rfl, fun h => absurd h (by decide), fun _ _ _ => rfl⟩
  · exact ⟨1, rfl, fun h => absurd h (by decide), fun _ _ _ => rfl⟩
  · exact ⟨2, rfl, fun _ => rfl, fun h n w => userData_ucs2 (h rfl) _ n w⟩

/-- Settles O42: once UDL is read, each row is the user-data step of its alphabet. -/
theorem codingTakesUserData : Obligations.CodingTakesUserData := by
  intro s n hw hudl pos Ends
  obtain ⟨hcap, -, -⟩ := Config.wf_data hw
  have hstep := fun a => alphabet_after_udl hudl s.cfg (input s) a
  refine ⟨fun i hi => ?_, fun x hx => ?_,
    exec_gsmStep_raised rfl ((hstep 3).trans (userData_reserved _ _ _ _))⟩
  · have hexec : exec i s = .next (gsmStep (alphabet s.cfg (input s) 0) s) := by
      simp only [List.mem_cons, List.not_mem_nil, or_false] at hi
      rcases hi with rfl | rfl <;> rfl
    refine ⟨fun h => exec_gsmStep_raised hexec ((hstep 0).trans (userData_text_long h _ _)),
      fun h hout => exec_gsmStep_raised hexec ((hstep 0).trans (userData_text_short h ?_)),
      fun h hin => exec_gsmStep_next hexec ((hstep 0).trans (userData_text_ok hcap h ?_))⟩ <;>
    rwa [input_length]
  · obtain ⟨a, hexec, hucs2, hcopy⟩ := exec_octetCoding hx s
    refine ⟨fun h3 hen => exec_gsmStep_raised hexec ((hstep a).trans ?_), fun hen => ?_⟩
    · rw [hucs2 h3]
      exact userData_ucs2_disabled hen _ _ _
    · have hcopy := fun w => hcopy hen n.toNat w
      refine ⟨fun h => exec_gsmStep_raised hexec ((hstep a).trans ((hcopy _).trans (copyOctets_long h _ _ _))),
        fun h hout => exec_gsmStep_raised hexec ((hstep a).trans ((hcopy _).trans (copyOctets_short h ?_ _))),
        fun h hin => exec_gsmStep_next hexec ((hstep a).trans ((hcopy _).trans (copyOctets_ok h ?_ _)))⟩ <;>
      rwa [input_length]

end Sys2Proof.Machine
end

section
/-! PROOFS. DECGSM of a well-formed PDU (43_gsm_pdu.md R201 to R208): what each group of its nine steps answers on the
octets it faces, and the state and the record the operation ends with. -/

namespace Sys2Proof.Machine

open Wire

/-! ### The octets at an offset -/

/-- From offset `pos` on, the octets of `l` are `rest`. -/
def Faces (l : List Byte) (pos : Nat) (rest : List Byte) : Prop := ∃ pre, l = pre ++ rest ∧ pos = pre.length

section
variable {l x rest : List Byte} {b : Byte} {pos : Nat}

theorem Faces.past (h : Faces l pos (x ++ rest)) : Faces l (pos + x.length) rest := by
  obtain ⟨pre, rfl, rfl⟩ := h
  exact ⟨pre ++ x, (List.append_assoc _ _ _).symm, List.length_append.symm⟩

theorem Faces.next (h : Faces l pos (b :: rest)) : Faces l (pos + 1) rest := Faces.past (x := [b]) h

theorem Faces.due (h : Faces l pos (x ++ rest)) : pos + x.length ≤ l.length := by
  obtain ⟨pre, rfl, rfl⟩ := h
  simp only [List.length_append]
  omega

theorem Faces.drop_eq (h : Faces l pos rest) : l.drop pos = rest := by
  obtain ⟨pre, rfl, rfl⟩ := h
  exact List.drop_left

theorem Faces.octetsAt_eq (h : Faces l pos (x ++ rest)) : octetsAt l pos x.length = x := by
  rw [octetsAt, h.drop_eq, List.take_left]

theorem Faces.getD_eq (h : Faces l pos (b :: rest)) : l.getD pos 0 = b := by
  obtain ⟨pre, rfl, rfl⟩ := h
  simp

end

theorem takeOctet_faces {l rest : List Byte} {b : Byte} {w : GsmWork} (h : Faces l w.pos (b :: rest)) :
    takeOctet l w = .ok (b, advance 1 w) := by
  have hdue : w.pos + 1 ≤ l.length := Faces.due (x := [b]) h
  rw [takeOctet, need_ok hdue, h.getD_eq]

theorem skipOctets_faces {l x rest : List Byte} {w : GsmWork} (h : Faces l w.pos (x ++ rest)) :
    skipOctets l.length x.length w = .ok (advance x.length w) := skipOctets_ok h.due

/-! ### The bits of the first octet and of the data-coding scheme -/

theorem extractLsb'_eq_iff {n : Nat} {b : BitVec n} {start len : Nat} {v : BitVec len} :
    b.extractLsb' start len = v ↔ b.toNat / 2 ^ start % 2 ^ len = v.toNat := by
  rw [← BitVec.toNat_inj, BitVec.extractLsb'_toNat, Nat.shiftRight_eq_div_pow]

/-- The message-type field of the first octet (R96). -/
theorem mti_eq_iff {fo : Byte} {v : BitVec 2} : fo.extractLsb' 0 2 = v ↔ fo.toNat % 4 = v.toNat := by
  simp only [extractLsb'_eq_iff, Nat.pow_zero, Nat.div_one, Nat.reducePow]

theorem messageType_ok {fo : Byte} (h : fo.toNat % 4 = 0 ∨ fo.toNat % 4 = 1) (w : GsmWork) :
    messageType (fo.extractLsb' 0 2) w = .ok { w with kind := BitVec.ofNat 2 (fo.toNat % 4) } := by
  rcases h with h | h
  · rw [h, (mti_eq_iff (v := 0)).2 h]; rfl
  · rw [h, (mti_eq_iff (v := 1)).2 h]; rfl

theorem messageType_refused {fo : Byte} (h : 2 ≤ fo.toNat % 4) (w : GsmWork) :
    messageType (fo.extractLsb' 0 2) w = .error .unsupported := by
  have h0 : fo.extractLsb' 0 2 ≠ 0 := mt mti_eq_iff.1 (by rw [show (0 : BitVec 2).toNat = 0 from rfl]; omega)
  have h1 : fo.extractLsb' 0 2 ≠ 1 := mt mti_eq_iff.1 (by rw [show (1 : BitVec 2).toNat = 1 from rfl]; omega)
  rw [messageType, if_neg h0, if_neg h1]

theorem vpWidth_eq (fo : Byte) : vpWidth (fo.extractLsb' 3 2) = vpOctets fo := by
  simp only [vpWidth, vpOctets, extractLsb'_eq_iff]
  rfl

/-- The machine's alphabet of a DCS octet is that of R97. -/
theorem dcsAlphabet_eq (d : Byte) : dcsAlphabet d = (alphabetOf d).map (BitVec.ofNat 2) := by
  have hd : d.toNat < 256 := d.isLt
  have hgroup : d.extractLsb' 6 2 = 0 ↔ d.toNat / 64 = 0 :=
    extractLsb'_eq_iff.trans (by rw [show (0 : BitVec 2).toNat = 0 from rfl]; omega)
  have hgroup4 : d.extractLsb' 4 4 = 0xF ↔ d.toNat / 16 = 15 :=
    extractLsb'_eq_iff.trans (by rw [show (0xF : BitVec 4).toNat = 15 from rfl]; omega)
  have hlow : d.extractLsb' 2 2 = BitVec.ofNat 2 (d.toNat / 4 % 4) :=
    extractLsb'_eq_iff.2 (by rw [BitVec.toNat_ofNat]; omega)
  have hbit : (if d.getLsbD 2 then 1 else 0) = BitVec.ofNat 2 (d.toNat / 4 % 2) := by
    rw [BitVec.getLsbD, Nat.testBit_eq_decide_div_mod_eq]
    obtain h | h : d.toNat / 4 % 2 = 0 ∨ d.toNat / 4 % 2 = 1 := by omega
    all_goals simp [h]
  rw [dcsAlphabet, hlow, hbit, alphabetOf]
  simp only [hgroup, hgroup4, apply_ite (Option.map (BitVec.ofNat 2))]
  rfl

/-- A scheme of alphabet `a` is that alphabet's step. -/
theorem dataCoding_of_alphabet {d : Byte} {a : Nat} (h : alphabetOf d = some a) (c : Config) (l : List Byte)
    (w : GsmWork) : dataCoding c l d w = alphabet c l (BitVec.ofNat 2 a) w := by
  rw [dataCoding, dcsAlphabet_eq, h]
  rfl

theorem dataCoding_of_refused {d : Byte} (h : alphabetOf d = none) (c : Config) (l : List Byte) (w : GsmWork) :
    dataCoding c l d w = .error .unsupported := by
  rw [dataCoding, dcsAlphabet_eq, h]
  rfl

/-! ### The steps in groups -/

/-- Steps 1 and 2: the service-centre address and the first octet. -/
def decFirst (l : List Byte) (sca : Bool) : Except Kind (Byte × GsmWork) := do
  let w ← skipSca sca l {}
  takeOctet l w

/-- Steps 2 to 4: the message type, the message reference and the address. -/
def decAddress (c : Config) (l : List Byte) (fo : Byte) (w : GsmWork) : Except Kind GsmWork := do
  let w ← messageType (fo.extractLsb' 0 2) w
  let w ← skipReference l.length w
  takeAddress c l w

/-- Steps 5 and 6: the protocol identifier and the data-coding scheme. -/
def decCoding (c : Config) (l : List Byte) (w : GsmWork) : Except Kind (Byte × GsmWork) := do
  let w ← skipOctets l.length 1 w
  let (dcs, w) ← takeOctet l w
  let w ← dataCoding c l dcs w
  pure (dcs, w)

/-- Step 7 and UDL: the timestamp or the validity period. -/
def decTime (c : Config) (l : List Byte) (fo : Byte) (w : GsmWork) : Except Kind GsmWork :=
  (if w.kind = 0 then takeTimestamp c l w else skipValidity l.length (fo.extractLsb' 3 2) w) >>= fun w =>
    takeOctet l w >>= fun p => pure { p.2 with udl := some p.1 }

/-- Steps 8 and 9: the header indicator, the user data and the status-report request. -/
def decBody (c : Config) (l : List Byte) (fo dcs : Byte) (w : GsmWork) : Except Kind GsmWork :=
  (if fo.getLsbD 6 then headerIndicator w else .ok w) >>= fun w =>
    dataCoding c l dcs w >>= fun w => if fo.getLsbD 5 then statusReport w else .ok w

theorem ok_bind {α β : Type} (a : α) (f : α → Except Kind β) : (.ok a >>= f) = f a := rfl

theorem error_bind {α β : Type} (k : Kind) (f : α → Except Kind β) : (.error k >>= f) = .error k := rfl

/-- What follows a choice of steps follows the step chosen. -/
theorem ite_bind {α β : Type} {p : Prop} [Decidable p] (r r' : Except Kind α) (f : α → Except Kind β) :
    (if p then r else r') >>= f = if p then r >>= f else r' >>= f := by
  split <;> rfl

/-- DECGSM is the five groups in turn. -/
theorem decGsm_eq (c : Config) (l : List Byte) (sca : Bool) : decGsm c l sca =
    decFirst l sca >>= fun p => decAddress c l p.1 p.2 >>= fun w => decCoding c l w >>= fun q =>
      decTime c l p.1 q.2 >>= decBody c l p.1 q.1 := by
  simp only [decGsm, decFirst, decAddress, decCoding, decTime, decBody, bind_assoc, pure_bind, ite_bind]

/-! ### Each group on the octets it faces -/

/-- The service-centre address block for a decode with flag `sca` (R204). -/
def ScaBlock (sca : Bool) (b : List Byte) : Prop :=
  if sca then ∃ n x, b = n :: x ∧ x.length = n.toNat else b = []

theorem skipSca_faces {l b rest : List Byte} {sca : Bool}
    (h : ScaBlock sca b) (hl : Faces l 0 (b ++ rest)) :
    skipSca sca l {} = .ok { pos := b.length } := by
  cases sca with
  | false =>
    obtain rfl : b = [] := h
    rfl
  | true =>
    obtain ⟨n, x, rfl, hx⟩ := h
    simp only [skipSca, if_true, takeOctet_faces (w := {}) hl, advance, ← hx, List.length_cons, Nat.zero_add,
      Nat.add_comm 1]

section
variable {c : Config} {l rest : List Byte} {f : GsmFields} {sca : Bool}

theorem decFirst_faces (h : ScaBlock sca f.sca)
    (hl : l = f.sca ++ [f.fo] ++ rest) : decFirst l sca = .ok (f.fo, { pos := (f.sca ++ [f.fo]).length }) := by
  have hfirst : Faces l f.sca.length (f.fo :: rest) := ⟨_, by simp [hl], rfl⟩
  rw [decFirst, skipSca_faces h (rest := f.fo :: rest) ⟨[], by simp [hl], rfl⟩, ok_bind, takeOctet_faces hfirst,
    List.length_append]
  rfl

theorem decAddress_type_refused (h : 2 ≤ f.mti) (w : GsmWork) :
    decAddress c l f.fo w = .error .unsupported := by
  rw [decAddress, messageType_refused h, error_bind]

/-- The message reference has no octet in a Deliver and one in a Submit (R94). -/
theorem skipReference_faces {w : GsmWork} (ht : f.mti = 0 ∨ f.mti = 1) (hm : f.mr.length = f.mti)
    (hk : w.kind = BitVec.ofNat 2 f.mti) (hl : Faces l w.pos (f.mr ++ rest)) :
    skipReference l.length w = .ok (advance f.mr.length w) := by
  rcases ht with ht | ht
  · rw [skipReference, if_neg (by rw [hk, ht]; decide), hm, ht]
    rfl
  · rw [skipReference, if_pos (by rw [hk, ht]; rfl), ← skipOctets_faces hl, hm, ht]

/-- The address is decoded from its own octets (R98, R181). -/
theorem takeAddress_faces {w : GsmWork} (hd : f.adr.length = (f.alen.toNat + 1) / 2)
    (hl : Faces l w.pos (f.alen :: f.toa :: (f.adr ++ rest))) :
    takeAddress c l w =
      (decAddr c f.adr f.alen.toNat f.toa).map fun a => { advance f.adr.length (advance 2 w) with addr := a } := by
  have hadr : Faces l (w.pos + 2) (f.adr ++ rest) := hl.next.next
  have hhead : w.pos + 2 ≤ l.length := (Nat.le_add_right _ _).trans hadr.due
  have hneed : need l.length f.adr.length (advance 2 w) = .ok () := need_ok hadr.due
  have hoct : octetsAt l (advance 2 w).pos f.adr.length = f.adr := hadr.octetsAt_eq
  simp only [takeAddress, need_ok hhead, hl.getD_eq, hl.next.getD_eq, ← hd, hneed, hoct]
  cases decAddr c f.adr f.alen.toNat f.toa <;> rfl

/-- DECGSM's locals once the address is read. -/
def addressed (f : GsmFields) (a : List Byte) : GsmWork :=
  { pos := (f.sca ++ [f.fo] ++ f.mr ++ [f.alen, f.toa] ++ f.adr).length, kind := BitVec.ofNat 2 f.mti, addr := a }

theorem decAddress_faces (ht : f.mti = 0 ∨ f.mti = 1) (hm : f.mr.length = f.mti)
    (hd : f.adr.length = (f.alen.toNat + 1) / 2)
    (hl : l = f.sca ++ [f.fo] ++ f.mr ++ [f.alen, f.toa] ++ f.adr ++ rest) :
    decAddress c l f.fo { pos := (f.sca ++ [f.fo]).length } =
      (decAddr c f.adr f.alen.toNat f.toa).map (addressed f) := by
  have hmr : Faces l (f.sca ++ [f.fo]).length (f.mr ++ (f.alen :: f.toa :: (f.adr ++ rest))) :=
    ⟨_, by simp [hl], rfl⟩
  rw [decAddress, messageType_ok ht, ok_bind, skipReference_faces ht hm rfl hmr, ok_bind,
    takeAddress_faces hd hmr.past]
  congr 2 with a
  simp only [addressed, advance, List.length_append]
  rfl

/-- The octets up to UDL. -/
def beforeData (f : GsmFields) : List Byte := f.head ++ [f.dcs] ++ f.time ++ [f.udl]

theorem octets_eq (f : GsmFields) : f.octets = beforeData f ++ f.ud := rfl

/-- DECGSM's locals once the data-coding scheme, of alphabet `a`, is read. -/
def coded (f : GsmFields) (a : Nat) : GsmWork :=
  { addressed f f.address with pos := (f.head ++ [f.dcs]).length, alpha := BitVec.ofNat 2 a }

/-- DECGSM's locals once UDL is read. -/
def timed (c : Config) (f : GsmFields) (a : Nat) : GsmWork :=
  { coded f a with pos := (beforeData f).length, ts := f.stamp c, udl := some f.udl }

/-- The protocol identifier is skipped and the data-coding scheme taken, at its step 6 (R202). -/
theorem decCoding_faces (hl : l = f.head ++ [f.dcs] ++ rest) (x : List Byte) :
    decCoding c l (addressed f x) = (dataCoding c l f.dcs
      { addressed f x with pos := (f.head ++ [f.dcs]).length }).map (fun w => (f.dcs, w)) := by
  have hpid : Faces l (addressed f x).pos ([f.pid] ++ (f.dcs :: rest)) := ⟨_, by simp [hl, GsmFields.head], rfl⟩
  have hskip : skipOctets l.length 1 (addressed f x) = .ok (advance 1 (addressed f x)) := skipOctets_faces hpid
  have hdcs : Faces l (advance 1 (addressed f x)).pos (f.dcs :: rest) := hpid.past
  have hpos : advance 1 (advance 1 (addressed f x)) = { addressed f x with pos := (f.head ++ [f.dcs]).length } := by
    simp [advance, addressed, GsmFields.head, Nat.add_assoc]
  rw [decCoding, hskip, ok_bind, takeOctet_faces hdcs, ok_bind, hpos]
  show (dataCoding c l f.dcs _ >>= fun w => pure (f.dcs, w)) = _
  generalize dataCoding c l f.dcs _ = r
  cases r <;> rfl

theorem decCoding_alphabet {a : Nat} (ha : alphabetOf f.dcs = some a) (hl : l = f.head ++ [f.dcs] ++ rest) :
    decCoding c l (addressed f f.address) = .ok (f.dcs, coded f a) := by
  rw [decCoding_faces hl, dataCoding_of_alphabet ha, alphabet_before_udl rfl]
  rfl

theorem decCoding_refused (ha : alphabetOf f.dcs = none) (hl : l = f.head ++ [f.dcs] ++ rest) (x : List Byte) :
    decCoding c l (addressed f x) = .error .unsupported := by
  rw [decCoding_faces hl, dataCoding_of_refused ha]
  rfl

theorem takeTimestamp_faces {x : List Byte} {w : GsmWork} (hx : x.length = 7) (hl : Faces l w.pos (x ++ rest)) :
    takeTimestamp c l w = .ok { advance x.length w with ts := decTs c x } := by
  rw [takeTimestamp, ← hx, need_ok hl.due, hl.octetsAt_eq]

/-- DECGSM's locals once the timestamp is read or the validity period skipped. -/
def stamped (c : Config) (f : GsmFields) (a : Nat) : GsmWork :=
  { coded f a with pos := (f.head ++ [f.dcs] ++ f.time).length, ts := f.stamp c }

/-- Step 7 by the kind (R99, R205). -/
theorem stamp_faces {a : Nat} (ht : f.mti = 0 ∨ f.mti = 1)
    (htime : f.time.length = if f.mti = 0 then 7 else vpOctets f.fo) (hl : l = beforeData f ++ rest) :
    (if (coded f a).kind = 0 then takeTimestamp c l (coded f a)
      else skipValidity l.length (f.fo.extractLsb' 3 2) (coded f a)) = .ok (stamped c f a) := by
  have hfield : Faces l (coded f a).pos (f.time ++ (f.udl :: rest)) := ⟨_, by simp [hl, beforeData], rfl⟩
  have hpos : (f.head ++ [f.dcs] ++ f.time).length = (coded f a).pos + f.time.length := List.length_append
  rcases ht with ht | ht
  · rw [if_pos ht] at htime
    have hkind : (coded f a).kind = 0 := congrArg (BitVec.ofNat 2) ht
    rw [if_pos hkind, takeTimestamp_faces htime hfield, stamped, hpos, GsmFields.stamp, if_pos ht]
    rfl
  · have hdeliver : f.mti ≠ 0 := by omega
    rw [if_neg hdeliver] at htime
    have hkind : (coded f a).kind = 1 := congrArg (BitVec.ofNat 2) ht
    rw [if_neg (by rw [hkind]; decide), skipValidity_submit hkind, vpWidth_eq, ← htime, skipOctets_faces hfield,
      stamped, hpos, GsmFields.stamp, if_neg hdeliver]
    rfl

theorem decTime_faces {a : Nat} (ht : f.mti = 0 ∨ f.mti = 1)
    (htime : f.time.length = if f.mti = 0 then 7 else vpOctets f.fo) (hl : l = beforeData f ++ rest) :
    decTime c l f.fo (coded f a) = .ok (timed c f a) := by
  have hudl : Faces l (stamped c f a).pos (f.udl :: rest) := ⟨_, by simp [hl, beforeData], rfl⟩
  rw [decTime, stamp_faces ht htime hl, ok_bind, takeOctet_faces hudl, timed, beforeData, List.length_append]
  rfl

theorem decBody_header (h : f.fo.getLsbD 6 = true) (w : GsmWork) :
    decBody c l f.fo f.dcs w = .error .unsupported := by
  rw [decBody, if_pos h]
  rfl

/-- Past the header indicator, the user data is taken by its alphabet (R202, R207). -/
theorem decBody_noHeader {a : Nat} (h : f.fo.getLsbD 6 = false) (ha : alphabetOf f.dcs = some a) :
    decBody c l f.fo f.dcs (timed c f a) = userData c l (BitVec.ofNat 2 a) f.udl.toNat (timed c f a) >>= fun w =>
      if f.fo.getLsbD 5 then statusReport w else .ok w := by
  rw [decBody, h, if_neg Bool.false_ne_true, ok_bind, dataCoding_of_alphabet ha, alphabet_after_udl rfl]

/-- DECGSM's locals once the user data is taken. -/
def taken (c : Config) (f : GsmFields) (a : Nat) : GsmWork :=
  { timed c f a with pos := f.octets.length, data := f.payload c, format := f.formatCode }

theorem userData_faces (hc : c.textCharsMax ≤ c.gsmDataCap) (hb : f.BodyOk c) (hl : l = f.octets ++ rest) :
    ∃ a, alphabetOf f.dcs = some a ∧
      userData c l (BitVec.ofNat 2 a) f.udl.toNat (timed c f a) = .ok (taken c f a) := by
  have hud : ∀ a, Faces l (timed c f a).pos (f.ud ++ rest) := fun a => ⟨_, by simp [hl, octets_eq], rfl⟩
  have hcopied : ∀ a format, f.ud.length = f.udl.toNat → f.udl.toNat ≤ c.udOctetsMax → a ≠ 0 →
      alphabetOf f.dcs = some a → f.formatCode = format →
      copyOctets c l f.udl.toNat format (timed c f a) = .ok (taken c f a) := by
    intro a format hlen hmax ha halpha hfmt
    rw [← hlen] at hmax ⊢
    rw [copyOctets_ok hmax (hud a).due, (hud a).octetsAt_eq, taken, GsmFields.payload, halpha,
      if_neg (by simpa using ha), hfmt, octets_eq, List.length_append]
    rfl
  unfold GsmFields.BodyOk at hb
  split at hb
  next ha =>
    obtain ⟨hmax, hlen⟩ := hb
    refine ⟨0, ha, (userData_text_ok hc hmax (hlen ▸ (hud 0).due)).trans ?_⟩
    have hseptets : septets (l.drop (timed c f 0).pos) f.udl.toNat = septets f.ud f.udl.toNat := by
      rw [(hud 0).drop_eq, ← septets_take, ← hlen, List.take_left]
    rw [hseptets, ← hlen, taken, GsmFields.payload, GsmFields.formatCode, ha, if_pos rfl, if_pos rfl, octets_eq,
      List.length_append]
    rfl
  next ha =>
    obtain ⟨hmax, hlen⟩ := hb
    exact ⟨1, ha, hcopied 1 1 hlen hmax (by decide) ha (by simp [GsmFields.formatCode, ha])⟩
  next ha =>
    obtain ⟨hen, hmax, hlen⟩ := hb
    exact ⟨2, ha, (userData_ucs2 hen _ _ _).trans
      (hcopied 2 3 hlen hmax (by decide) ha (by simp [GsmFields.formatCode, ha]))⟩
  next => exact hb.elim

/-- DECGSM's locals at its end. -/
def reported (c : Config) (f : GsmFields) (a : Nat) : GsmWork :=
  { taken c f a with srr := if f.mti = 1 ∧ f.fo.getLsbD 5 = true then 1 else 0 }

/-- The status-report request is kept for a Submit only (R208). -/
theorem statusReport_faces {a : Nat} (ht : f.mti = 0 ∨ f.mti = 1) :
    (if f.fo.getLsbD 5 then statusReport (taken c f a) else .ok (taken c f a)) = .ok (reported c f a) := by
  by_cases hsrr : f.fo.getLsbD 5 = true
  · rw [if_pos hsrr, reported]
    rcases ht with ht | ht
    · have hkind : (taken c f a).kind = 0 := congrArg (BitVec.ofNat 2) ht
      rw [statusReport_other (by rw [hkind]; decide), if_neg (by omega)]
      rfl
    · have hkind : (taken c f a).kind = 1 := congrArg (BitVec.ofNat 2) ht
      rw [statusReport_submit hkind, if_pos ⟨ht, hsrr⟩]
  · rw [if_neg hsrr, reported, if_neg (fun h => hsrr h.2)]
    rfl

/-! ### The whole decode, as far as the octets are in order -/

theorem decGsm_type_refused (h : ScaBlock sca f.sca)
    (ht : 2 ≤ f.mti) (hl : l = f.sca ++ [f.fo] ++ rest) : decGsm c l sca = .error .unsupported := by
  rw [decGsm_eq, decFirst_faces h hl, ok_bind, decAddress_type_refused ht, error_bind]

/-- Up to the address, DECGSM goes on with what `DECADDR` answers. -/
theorem decGsm_address (h : ScaBlock sca f.sca)
    (ht : f.mti = 0 ∨ f.mti = 1) (hm : f.mr.length = f.mti) (hd : f.adr.length = (f.alen.toNat + 1) / 2)
    (hl : l = f.sca ++ [f.fo] ++ f.mr ++ [f.alen, f.toa] ++ f.adr ++ rest) :
    decGsm c l sca = (decAddr c f.adr f.alen.toNat f.toa).map (addressed f) >>= fun w => decCoding c l w >>= fun q =>
      decTime c l f.fo q.2 >>= decBody c l f.fo q.1 := by
  have hfirst : l = f.sca ++ [f.fo] ++ (f.mr ++ [f.alen, f.toa] ++ f.adr ++ rest) := by simp [hl]
  rw [decGsm_eq, decFirst_faces h hfirst, ok_bind, decAddress_faces ht hm hd hl]

theorem decAddr_of_headOk (hf : f.HeadOk c sca) : decAddr c f.adr f.alen.toNat f.toa = .ok f.address := by
  rw [decAddr_eq, if_neg (by rw [hf.digits]; exact lt_irrefl _), if_neg (Nat.not_lt.2 hf.fits),
    digitChars_of_decimal hf.decimal]
  rfl

theorem decGsm_head (hf : f.HeadOk c sca) (hl : l = f.head ++ rest) :
    decGsm c l sca = decCoding c l (addressed f f.address) >>= fun q =>
      decTime c l f.fo q.2 >>= decBody c l f.fo q.1 := by
  rw [decGsm_address hf.scaBlock hf.type hf.reference hf.digits (rest := f.pid :: rest) (by simp [hl, GsmFields.head]),
    decAddr_of_headOk hf]
  rfl

theorem decGsm_group_refused (hf : f.HeadOk c sca) (ha : alphabetOf f.dcs = none)
    (hl : l = f.head ++ [f.dcs] ++ rest) : decGsm c l sca = .error .unsupported := by
  rw [decGsm_head hf (rest := f.dcs :: rest) (by simp [hl]), decCoding_refused ha hl, error_bind]

/-- With everything up to UDL in order, DECGSM is its last two steps. -/
theorem decGsm_beforeData {a : Nat} (hf : f.HeadOk c sca) (ha : alphabetOf f.dcs = some a)
    (htime : f.time.length = if f.mti = 0 then 7 else vpOctets f.fo) (hl : l = beforeData f ++ rest) :
    decGsm c l sca = decBody c l f.fo f.dcs (timed c f a) := by
  have hcoded : l = f.head ++ [f.dcs] ++ (f.time ++ [f.udl] ++ rest) := by simp [hl, beforeData]
  rw [decGsm_head hf (rest := [f.dcs] ++ (f.time ++ [f.udl] ++ rest)) (by simp [hcoded]), decCoding_alphabet ha hcoded,
    ok_bind, decTime_faces hf.type htime hl, ok_bind]

/-- DECGSM of a well-formed PDU, whatever follows it. -/
theorem decGsm_octets (hc : c.textCharsMax ≤ c.gsmDataCap) (hf : f.HeadOk c sca) (hm : f.MiddleOk) (hb : f.BodyOk c)
    (hl : l = f.octets ++ rest) : ∃ a, decGsm c l sca = .ok (reported c f a) := by
  obtain ⟨a, ha, hdata⟩ := userData_faces hc hb hl
  refine ⟨a, ?_⟩
  rw [decGsm_beforeData hf ha hm.time (rest := f.ud ++ rest) (by simp [hl, octets_eq]),
    decBody_noHeader hm.noHeader ha, hdata, ok_bind, statusReport_faces hf.type]

end

/-! ### The record (R208) -/

/-- What the model says of the string arrays and of their 8-bit lengths (log 28). -/
theorem Config.wf_strings {c : Config} (h : c.wf = true) : c.addrStrCap ≤ 256 ∧ c.tsStrCap ≤ 256 := by
  simp only [Config.wf, Bool.and_eq_true, decide_eq_true_eq] at h
  omega

theorem toNat_low8_of_lt {n : Nat} (h : n < 256) : (low8 n).toNat = n := by
  rw [low8, BitVec.toNat_ofNat, Nat.mod_eq_of_lt h]

/-- A string with its NUL in an array that has room for both. -/
theorem fillTo_string (g : Nat → Byte) {cap : Nat} {x : List Byte} (h : x.length + 1 ≤ cap) (k : Nat)
    (hk : k ≤ x.length) : (fillTo g cap (x ++ [0])).getD k 1 = (x ++ [0]).getD k 1 :=
  fillTo_getD _ _ _ _ _ (by simpa [Nat.lt_succ_iff] using hk) (by simpa using h)

/-- The record says what DECGSM's locals hold, where each has room. -/
theorem gsmRecord_says {c : Config} (hc : c.wf = true) (draw : Nat) {w : GsmWork}
    (haddr : w.addr.length + 1 ≤ c.addrStrCap) (hts : w.ts.length + 1 ≤ c.tsStrCap)
    (hdata : w.data.length ≤ c.gsmDataCap) :
    RecordSays (gsmRecord c draw w) w.kind w.addr w.ts w.format w.data w.srr := by
  obtain ⟨-, -, hcap⟩ := Config.wf_data hc
  obtain ⟨haddrCap, htsCap⟩ := Config.wf_strings hc
  exact
    { kindIs := rfl
      addrLen := toNat_low8_of_lt (by omega)
      addrIs := fillTo_string _ haddr
      formatIs := rfl
      tsLen := toNat_low8_of_lt (by omega)
      tsIs := fillTo_string _ hts
      dataLen := toNat_low8_of_lt (by omega)
      dataIs := fun k hk => fillTo_getD _ _ _ _ _ hk hdata
      srrIs := rfl }

theorem address_length_le {c : Config} {f : GsmFields} {sca : Bool} (hf : f.HeadOk c sca) :
    f.address.length + 1 ≤ c.addrStrCap := by
  have hfits := hf.fits
  rw [GsmFields.address, List.length_append, digits_length]
  omega

section
variable {c : Config} {f : GsmFields} (hc : c.wf = true)
include hc

theorem stamp_length_le : (f.stamp c).length + 1 ≤ c.tsStrCap := by
  unfold GsmFields.stamp
  split
  · exact decTs_length hc _
  · obtain ⟨-, -, -, -, -, hts, -, -⟩ := Config.wf_bounds hc
    exact (by decide : 1 ≤ 21).trans hts

theorem payload_length_le (hb : f.BodyOk c) : (f.payload c).length ≤ c.gsmDataCap := by
  obtain ⟨htext, hoctets, -⟩ := Config.wf_data hc
  have hchars := unescape_length_le c (septets f.ud f.udl.toNat)
  rw [septets_length] at hchars
  unfold GsmFields.BodyOk at hb
  unfold GsmFields.payload
  split at hb
  next ha => rw [if_pos ha]; omega
  next ha => rw [if_neg (by simp [ha])]; omega
  next ha => rw [if_neg (by simp [ha])]; omega
  next => exact hb.elim

end

/-! ### The operation -/

/-- `ARG2[31:2]` is 0 where ARG2 has no flag but the two of R21. -/
theorem flagsReserved_eq_false {s : State} : flagsReserved s = false ↔ s.arg2.toNat < 4 := by
  have hlt := s.arg2.isLt
  rw [flagsReserved, decide_eq_false_iff_not, not_not, extractLsb'_eq_iff, show (0 : BitVec 30).toNat = 0 from rfl]
  omega

/-- The operand checks of DECGSM and ENCGSM (R91). -/
theorem gsmOperands_ok {s : State} (hi : s.ilen.toNat ≤ s.cfg.ibufCap) (ha : s.arg2.toNat < 4) :
    (ilenTooLong s || flagsReserved s) = false := by
  rw [ilenTooLong_eq_false.2 hi, flagsReserved_eq_false.2 ha, Bool.or_false]

theorem gsmOperands_refused {s : State} (h : s.cfg.ibufCap < s.ilen.toNat ∨ 4 ≤ s.arg2.toNat) :
    (ilenTooLong s || flagsReserved s) = true := by
  by_contra hr
  rw [Bool.not_eq_true, Bool.or_eq_false_iff, ilenTooLong_eq_false, flagsReserved_eq_false] at hr
  omega

theorem exec_decgsm_refused {s : State} (h : s.cfg.ibufCap < s.ilen.toNat ∨ 4 ≤ s.arg2.toNat) :
    exec .decgsm s = .next (raise .decgsm .fault (start s)) :=
  (execDecgsm_eq s).trans (congrArg _ (settle_refused (gsmOperands_refused h)))

/-- The state DECGSM ends OK in, its locals being `w`. -/
def gsmDecoded (s : State) (w : GsmWork) : State :=
  finish .ok { start s with msgG := gsmRecord s.cfg s.free w, free := s.free + 1 }

section
variable {s : State} (hi : s.ilen.toNat ≤ s.cfg.ibufCap) (ha : s.arg2.toNat < 4)
include hi ha

theorem exec_decgsm_error {k : Kind} (h : decGsm s.cfg (input s) (s.arg2.getLsbD 0) = .error k) :
    exec .decgsm s = .next (raise .decgsm k (start s)) :=
  (execDecgsm_eq s).trans (congrArg _ (settle_error (gsmOperands_ok hi ha) h))

theorem exec_decgsm_ok {w : GsmWork} (h : decGsm s.cfg (input s) (s.arg2.getLsbD 0) = .ok w) :
    exec .decgsm s = .next (gsmDecoded s w) :=
  (execDecgsm_eq s).trans (congrArg _ (settle_ok (gsmOperands_ok hi ha) h))

/-- DECGSM of the octets of a well-formed PDU, whatever follows them: the record that PDU says. -/
theorem exec_decgsm_octets {f : GsmFields} {rest : List Byte} (hc : s.cfg.wf = true) (hl : input s = f.octets ++ rest)
    (hf : f.HeadOk s.cfg (s.arg2.getLsbD 0)) (hm : f.MiddleOk) (hb : f.BodyOk s.cfg) :
    ∃ w, exec .decgsm s = .next (gsmDecoded s w) ∧
      RecordSays (gsmDecoded s w).msgG (BitVec.ofNat 2 f.mti) f.address (f.stamp s.cfg) f.formatCode
        (f.payload s.cfg) (if f.mti = 1 ∧ f.fo.getLsbD 5 = true then 1 else 0) := by
  obtain ⟨htext, -, -⟩ := Config.wf_data hc
  obtain ⟨a, hdec⟩ := decGsm_octets htext hf hm hb hl
  exact ⟨_, exec_decgsm_ok hi ha hdec,
    gsmRecord_says hc _ (address_length_le hf) (stamp_length_le hc) (payload_length_le hc hb)⟩

end

/-- Settles O32: each group of the nine steps finds its octets, and the record says what they gave. -/
theorem decgsmDecodes : Obligations.DecgsmDecodes := by
  intro s f rest hc hi ha hl hf hm hb
  obtain ⟨w, hexec, hsays⟩ := exec_decgsm_octets hi ha hc hl hf hm hb
  exact ⟨_, hexec, rfl, hsays⟩

end Sys2Proof.Machine
end

section
/-! PROOFS. What DECGSM refuses, each at its step (43_gsm_pdu.md R202, R206, R207, R209), whatever octets follow. -/

namespace Sys2Proof.Machine

open Wire

/-! ### The address (R181) -/

section
variable {c : Config} {l : List Byte} {cnt : Nat} {toa : Byte} (hd : l.length = (cnt + 1) / 2)
include hd

theorem decAddr_tooLong (h : c.addrStrCap < cnt + (plus toa).length + 1) :
    decAddr c l cnt toa = .error .overflow := by
  rw [decAddr_eq, hd, if_neg (lt_irrefl _), if_pos h]

theorem decAddr_unmapped (hfits : cnt + (plus toa).length + 1 ≤ c.addrStrCap) {i : Nat} (hi : i < cnt)
    (h : 9 < nibble l i) : decAddr c l cnt toa = .error .unsupported := by
  rw [decAddr_eq, hd, if_neg (lt_irrefl _), if_neg (Nat.not_lt.2 hfits), digitChars_of_unmapped hi h]
  rfl

end

section
variable {c : Config} {l rest : List Byte} {f : GsmFields} {sca : Bool}

/-- An address `DECADDR` refuses ends DECGSM with its status. -/
theorem decGsm_address_refused {k : Kind}
    (h : ScaBlock sca f.sca)
    (ht : f.mti ≤ 1) (hm : f.mr.length = f.mti) (hd : f.adr.length = (f.alen.toNat + 1) / 2)
    (hl : l = f.sca ++ [f.fo] ++ f.mr ++ [f.alen, f.toa] ++ f.adr ++ rest)
    (hk : decAddr c f.adr f.alen.toNat f.toa = .error k) : decGsm c l sca = .error k := by
  rw [decGsm_address h (by omega) hm hd hl, hk]
  rfl

theorem decGsm_header_refused (hf : f.HeadOk c sca) (ha : alphabetOf f.dcs ≠ none)
    (htime : f.time.length = if f.mti = 0 then 7 else vpOctets f.fo) (hl : l = beforeData f ++ rest)
    (h : f.fo.getLsbD 6 = true) : decGsm c l sca = .error .unsupported := by
  obtain ⟨a, ha⟩ := Option.ne_none_iff_exists'.1 ha
  rw [decGsm_beforeData hf ha htime hl, decBody_header h]

/-- User data that step 9 refuses ends DECGSM with its status. -/
theorem decGsm_userData_refused {a : Nat} {k : Kind} (hf : f.HeadOk c sca) (hm : f.MiddleOk)
    (ha : alphabetOf f.dcs = some a) (hl : l = beforeData f ++ rest)
    (hk : userData c l (BitVec.ofNat 2 a) f.udl.toNat (timed c f a) = .error k) : decGsm c l sca = .error k := by
  rw [decGsm_beforeData hf ha hm.time hl, decBody_noHeader hm.noHeader ha, hk, error_bind]

end

/-! ### The operation -/

/-- An input `decGsm` refuses ends DECGSM with its status. -/
theorem decgsm_raises {s : State} {k : Kind} (hi : s.ilen.toNat ≤ s.cfg.ibufCap) (ha : s.arg2.toNat < 4)
    (h : decGsm s.cfg (input s) (s.arg2.getLsbD 0) = .error k) :
    ∃ t, exec .decgsm s = .next t ∧ Raised .decgsm k { s with diag := 0 } t :=
  ⟨_, exec_decgsm_error hi ha h, raise_raised _ _ _⟩

/-- Settles O34: each refusal at the step it is met, the steps before it in order. -/
theorem decgsmRefuses : Obligations.DecgsmRefuses := by
  intro s f rest _
  refine ⟨fun h => ⟨_, exec_decgsm_refused h, raise_raised _ _ _⟩,
    fun hi ha => ⟨fun hsca => ⟨fun ht hl => ?_, fun ht hm hd hl => ⟨fun hlong => ?_, fun hfits hdigit => ?_⟩⟩,
      fun hf hl hgroup => ?_, fun hf hgroup htime hl hudhi => ?_⟩⟩
  · exact decgsm_raises hi ha (decGsm_type_refused hsca ht hl)
  · exact decgsm_raises hi ha (decGsm_address_refused hsca ht hm hd hl (decAddr_tooLong hd hlong))
  · obtain ⟨i, hcount, hnibble⟩ := hdigit
    exact decgsm_raises hi ha (decGsm_address_refused hsca ht hm hd hl (decAddr_unmapped hd hfits hcount hnibble))
  · exact decgsm_raises hi ha (decGsm_group_refused hf hgroup hl)
  · exact decgsm_raises hi ha (decGsm_header_refused hf hgroup htime hl hudhi)

/-- Settles O35: the refusals of step 9, before any octet of user data is looked at. -/
theorem decgsmLimits : Obligations.DecgsmLimits := by
  intro s f rest _ hi ha hf hm hl
  refine ⟨?_, ?_⟩
  · rintro (h3 | ⟨h2, hen⟩)
    · exact decgsm_raises hi ha (decGsm_userData_refused hf hm h3 hl (userData_reserved _ _ _ _))
    · exact decgsm_raises hi ha (decGsm_userData_refused hf hm h2 hl (userData_ucs2_disabled hen _ _ _))
  · rintro (⟨h0, hlong⟩ | ⟨h1, hlong⟩ | ⟨h2, hen, hlong⟩)
    · exact decgsm_raises hi ha (decGsm_userData_refused hf hm h0 hl (userData_text_long hlong _ _))
    · exact decgsm_raises hi ha (decGsm_userData_refused hf hm h1 hl (copyOctets_long hlong _ _ _))
    · exact decgsm_raises hi ha (decGsm_userData_refused hf hm h2 hl
        ((userData_ucs2 hen _ _ _).trans (copyOctets_long hlong _ _ _)))

end Sys2Proof.Machine
end

section
/-! PROOFS. A PDU cut short (43_gsm_pdu.md R209): every step of DECGSM on the first octets of a PDU either is
FAULT or answers what it answers on all of them; and DECGSM never ends OK past the octets it was given. -/

namespace Sys2Proof.Machine

open Wire

/-! ### Fewer octets: FAULT, or the same answer -/

/-- `r'`, from fewer octets than `r`, is FAULT or the same. -/
def FaultOr {α : Type} (r r' : Except Kind α) : Prop := r' = .error .fault ∨ r' = r

theorem FaultOr.refl {α : Type} (r : Except Kind α) : FaultOr r r := .inr rfl

theorem FaultOr.bind {α β : Type} {r r' : Except Kind α} {g g' : α → Except Kind β} (h : FaultOr r r')
    (hg : ∀ a, FaultOr (g a) (g' a)) : FaultOr (r >>= g) (r' >>= g') := by
  rcases h with rfl | rfl
  · exact .inl rfl
  · cases r' with
    | error k => exact .refl _
    | ok a => exact hg a

theorem FaultOr.ite {α : Type} {p : Prop} [Decidable p] {r r' q q' : Except Kind α} (h : FaultOr r r')
    (h' : FaultOr q q') : FaultOr (if p then r else q) (if p then r' else q') := by
  split
  · exact h
  · exact h'

/-- A step that first asks for `k` octets is FAULT where they are not there. -/
theorem FaultOr.need {α : Type} {k n : Nat} {l : List Byte} {w : GsmWork} {r r' : Except Kind α}
    (h : w.pos + k ≤ (l.take n).length → FaultOr r r') :
    FaultOr (Machine.need l.length k w >>= fun _ => r) (Machine.need (l.take n).length k w >>= fun _ => r') := by
  by_cases hin : w.pos + k ≤ (l.take n).length
  · rw [need_ok hin, need_ok (hin.trans (List.length_take_le' n l))]
    exact h hin
  · exact .inl (by rw [need_short (Nat.not_le.1 hin), error_bind])

/-! ### Each step is its test for octets, and then the rest -/

theorem skipOctets_eq (n k : Nat) (w : GsmWork) : skipOctets n k w = need n k w >>= fun _ => .ok (advance k w) := by
  rw [skipOctets]
  cases need n k w <;> rfl

theorem takeOctet_eq (l : List Byte) (w : GsmWork) :
    takeOctet l w = need l.length 1 w >>= fun _ => .ok (l.getD w.pos 0, advance 1 w) := by
  rw [takeOctet]
  cases need l.length 1 w <;> rfl

theorem takeTimestamp_eq (c : Config) (l : List Byte) (w : GsmWork) : takeTimestamp c l w =
    need l.length 7 w >>= fun _ => .ok { advance 7 w with ts := decTs c (octetsAt l w.pos 7) } := by
  rw [takeTimestamp]
  cases need l.length 7 w <;> rfl

theorem copyOctets_eq (c : Config) (l : List Byte) (n : Nat) (format : BitVec 2) (w : GsmWork) :
    copyOctets c l n format w = if c.udOctetsMax < n then .error .overflow
      else need l.length n w >>= fun _ => .ok { advance n w with data := octetsAt l w.pos n, format := format } := by
  rw [copyOctets]
  cases need l.length n w <;> rfl

/-- The text step, past its limit. -/
theorem userData_text_eq {c : Config} {n : Nat} (h : n ≤ c.textCharsMax) (l : List Byte) (w : GsmWork) :
    userData c l 0 n w = need l.length (ceil8 (7 * n)) w >>= fun _ =>
      (unpack7 c (octetsAt l w.pos (ceil8 (7 * n))) n c.gsmDataCap).map fun d =>
        { advance (ceil8 (7 * n)) w with data := d, format := 0 } := by
  rw [userData, if_pos rfl, if_neg (Nat.not_lt.2 h)]
  dsimp only
  cases need l.length (ceil8 (7 * n)) w with
  | error k => rfl
  | ok _ => cases unpack7 c (octetsAt l w.pos (ceil8 (7 * n))) n c.gsmDataCap <;> rfl

theorem takeAddress_eq (c : Config) (l : List Byte) (w : GsmWork) : takeAddress c l w =
    need l.length 2 w >>= fun _ => need l.length (((l.getD w.pos 0).toNat + 1) / 2) (advance 2 w) >>= fun _ =>
      (decAddr c (octetsAt l (advance 2 w).pos (((l.getD w.pos 0).toNat + 1) / 2)) (l.getD w.pos 0).toNat
        (l.getD (w.pos + 1) 0)).map fun a =>
          { advance (((l.getD w.pos 0).toNat + 1) / 2) (advance 2 w) with addr := a } := by
  rw [takeAddress]
  dsimp only
  cases need l.length 2 w with
  | error k => rfl
  | ok _ =>
    cases need l.length (((l.getD w.pos 0).toNat + 1) / 2) (advance 2 w) with
    | error k => rfl
    | ok _ =>
      cases decAddr c (octetsAt l (advance 2 w).pos (((l.getD w.pos 0).toNat + 1) / 2)) (l.getD w.pos 0).toNat
        (l.getD (w.pos + 1) 0) <;> rfl

/-! ### The first octets -/

section
variable {l : List Byte} {n : Nat}

theorem octetsAt_take {pos k : Nat} (h : pos + k ≤ (l.take n).length) :
    octetsAt (l.take n) pos k = octetsAt l pos k := by
  rw [List.length_take] at h
  rw [octetsAt, octetsAt, List.drop_take, List.take_take, min_eq_left (by omega)]

theorem getD_take {i : Nat} (h : i < (l.take n).length) : (l.take n).getD i 0 = l.getD i 0 := by
  rw [List.length_take] at h
  rw [List.getD_eq_getElem?_getD, List.getD_eq_getElem?_getD, List.getElem?_take_of_lt (by omega)]

end

section
variable (c : Config) (l : List Byte) (n : Nat)

theorem skipOctets_take (k : Nat) (w : GsmWork) :
    FaultOr (skipOctets l.length k w) (skipOctets (l.take n).length k w) := by
  rw [skipOctets_eq, skipOctets_eq]
  exact .need fun _ => .refl _

theorem takeOctet_take (w : GsmWork) : FaultOr (takeOctet l w) (takeOctet (l.take n) w) := by
  rw [takeOctet_eq, takeOctet_eq]
  exact .need fun hin => by rw [getD_take hin]; exact .refl _

theorem skipSca_take (sca : Bool) (w : GsmWork) : FaultOr (skipSca sca l w) (skipSca sca (l.take n) w) := by
  have h : ∀ x : List Byte, skipSca sca x w =
      if sca = true then takeOctet x w >>= fun p => .ok (advance p.1.toNat p.2) else .ok w := by
    intro x
    rw [skipSca]
    cases takeOctet x w <;> rfl
  rw [h, h]
  exact .ite ((takeOctet_take l n w).bind fun _ => .refl _) (.refl _)

theorem takeTimestamp_take (w : GsmWork) : FaultOr (takeTimestamp c l w) (takeTimestamp c (l.take n) w) := by
  rw [takeTimestamp_eq, takeTimestamp_eq]
  exact .need fun hin => by rw [octetsAt_take hin]; exact .refl _

theorem takeAddress_take (w : GsmWork) : FaultOr (takeAddress c l w) (takeAddress c (l.take n) w) := by
  rw [takeAddress_eq, takeAddress_eq]
  refine .need fun hin => ?_
  rw [getD_take (by omega), getD_take (by omega)]
  exact .need fun hin => by rw [octetsAt_take hin]; exact .refl _

theorem copyOctets_take (k : Nat) (format : BitVec 2) (w : GsmWork) :
    FaultOr (copyOctets c l k format w) (copyOctets c (l.take n) k format w) := by
  rw [copyOctets_eq, copyOctets_eq]
  exact .ite (.refl _) (.need fun hin => by rw [octetsAt_take hin]; exact .refl _)

theorem userData_take (a : BitVec 2) (k : Nat) (w : GsmWork) :
    FaultOr (userData c l a k w) (userData c (l.take n) a k w) := by
  by_cases h0 : a = 0
  · subst h0
    by_cases hk : k ≤ c.textCharsMax
    · rw [userData_text_eq hk, userData_text_eq hk]
      exact .need fun hin => by rw [octetsAt_take hin]; exact .refl _
    · rw [userData_text_long (Nat.not_le.1 hk), userData_text_long (Nat.not_le.1 hk)]
      exact .refl _
  · rw [userData, userData, if_neg h0, if_neg h0]
    exact .ite (copyOctets_take c l n k 1 w) (.ite (.ite (.refl _) (copyOctets_take c l n k 3 w)) (.refl _))

theorem dataCoding_take (d : Byte) (w : GsmWork) :
    FaultOr (dataCoding c l d w) (dataCoding c (l.take n) d w) := by
  unfold dataCoding alphabet
  cases dcsAlphabet d with
  | none => exact .refl _
  | some a =>
    cases w.udl with
    | none => exact .refl _
    | some k => exact userData_take c l n a k.toNat w

/-- DECGSM of the first `n` octets is FAULT, or ends as DECGSM of all of them does. -/
theorem decGsm_take (sca : Bool) : FaultOr (decGsm c l sca) (decGsm c (l.take n) sca) := by
  rw [decGsm_eq, decGsm_eq]
  refine .bind (.bind (skipSca_take l n sca _) fun _ => takeOctet_take l n _) fun p => .bind ?_ fun w =>
    .bind ?_ fun q => .bind ?_ fun w => ?_
  · exact .bind (.refl _) fun w => .bind (.ite (skipOctets_take l n 1 w) (.refl _)) fun w => takeAddress_take c l n w
  · exact .bind (skipOctets_take l n 1 w) fun w => .bind (takeOctet_take l n w) fun q =>
      .bind (dataCoding_take c l n _ _) fun _ => .refl _
  · exact .bind (.ite (takeTimestamp_take c l n _) (.ite (skipOctets_take l n _ _) (.refl _))) fun w =>
      .bind (takeOctet_take l n w) fun _ => .refl _
  · exact .bind (.refl _) fun w => .bind (dataCoding_take c l n _ w) fun _ => .refl _

end

/-! ### The offset where DECGSM ends OK -/

/-- If `r` is an answer, `P` holds of it. -/
def Answers {α : Type} (P : α → Prop) (r : Except Kind α) : Prop := ∀ a, r = .ok a → P a

section
variable {α β : Type} {P : α → Prop} {Q : β → Prop} {r r' : Except Kind α}

theorem Answers.error (k : Kind) : Answers P (.error k) := fun _ h => nomatch h

theorem Answers.ok {a : α} (h : P a) : Answers P (.ok a) := fun _ he => Except.ok.inj he ▸ h

theorem Answers.bind {g : α → Except Kind β} (h : Answers P r) (hg : ∀ a, P a → Answers Q (g a)) :
    Answers Q (r >>= g) := by
  cases r with
  | error k => exact .error k
  | ok a => exact hg a (h a rfl)

theorem Answers.any (r : Except Kind α) : Answers (fun _ => True) r := fun _ _ => trivial

theorem Answers.ite {p : Prop} [Decidable p] (h : Answers P r) (h' : Answers P r') :
    Answers P (if p then r else r') := by
  split
  · exact h
  · exact h'

/-- What follows a test for octets has them. -/
theorem Answers.need {k : Nat} {l : List Byte} {w : GsmWork} (h : w.pos + k ≤ l.length → Answers P r) :
    Answers P (Machine.need l.length k w >>= fun _ => r) := by
  by_cases hin : w.pos + k ≤ l.length
  · rw [need_ok hin]
    exact h hin
  · rw [need_short (Nat.not_le.1 hin)]
    exact .error _

end

/-- The offset stands within the octets `l`. -/
def Inside (l : List Byte) (w : GsmWork) : Prop := w.pos ≤ l.length

section
variable (c : Config) (l : List Byte)

theorem copyOctets_inside (k : Nat) (format : BitVec 2) (w : GsmWork) :
    Answers (Inside l) (copyOctets c l k format w) := by
  rw [copyOctets_eq]
  exact .ite (.error _) (.need fun hin => .ok hin)

theorem userData_inside (a : BitVec 2) (k : Nat) (w : GsmWork) : Answers (Inside l) (userData c l a k w) := by
  by_cases h0 : a = 0
  · subst h0
    by_cases hk : k ≤ c.textCharsMax
    · rw [userData_text_eq hk]
      refine .need fun hin => ?_
      cases unpack7 c (octetsAt l w.pos (ceil8 (7 * k))) k c.gsmDataCap with
      | error e => exact .error e
      | ok d => exact .ok hin
    · rw [userData_text_long (Nat.not_le.1 hk)]
      exact .error _
  · rw [userData, if_neg h0]
    exact .ite (copyOctets_inside c l k 1 w) (.ite (.ite (.error _) (copyOctets_inside c l k 3 w)) (.error _))

/-- Step 9 is the last to move the offset, and moves it only over octets that are there. -/
theorem decBody_inside {w : GsmWork} {u : Byte} (hudl : w.udl = some u) (fo dcs : Byte) :
    Answers (Inside l) (decBody c l fo dcs w) := by
  refine .bind (P := fun w' => w' = w) (.ite (.error _) (.ok rfl)) ?_
  rintro _ rfl
  refine .bind (P := Inside l) ?_ fun w' hw => .ite ?_ (.ok hw)
  · unfold dataCoding
    cases dcsAlphabet dcs with
    | none => exact .error _
    | some a =>
      show Answers (Inside l) (alphabet c l a _)
      rw [alphabet_after_udl hudl]
      exact userData_inside c l a u.toNat _
  · by_cases hk : w'.kind = 1
    · rw [statusReport_submit hk]
      exact .ok hw
    · rw [statusReport_other hk]
      exact .ok hw

theorem decGsm_inside (sca : Bool) : Answers (Inside l) (decGsm c l sca) := by
  rw [decGsm_eq]
  refine .bind (.any _) fun p _ => .bind (.any _) fun w _ => .bind (.any _) fun q _ => ?_
  have hudl : Answers (fun w => ∃ u, w.udl = some u) (decTime c l p.1 q.2) :=
    .bind (.any _) fun w _ => .bind (.any _) fun u _ => .ok ⟨u.1, rfl⟩
  exact .bind hudl fun w ⟨u, hu⟩ => decBody_inside c l hu p.1 q.1

end

/-- A well-formed PDU cut short: on the whole PDU DECGSM ends OK behind its last octet, where
no cut PDU reaches. -/
theorem decGsm_cut {c : Config} {f : GsmFields} {sca : Bool} {n : Nat} (hc : c.textCharsMax ≤ c.gsmDataCap)
    (hf : f.HeadOk c sca) (hm : f.MiddleOk) (hb : f.BodyOk c) (hn : n < f.octets.length) :
    decGsm c (f.octets.take n) sca = .error .fault := by
  obtain ⟨a, hwhole⟩ := decGsm_octets hc hf hm hb (List.append_nil f.octets).symm
  refine (decGsm_take c f.octets n sca).resolve_right fun hsame => ?_
  have hinside : f.octets.length ≤ (f.octets.take n).length := decGsm_inside c _ sca _ (hsame.trans hwhole)
  rw [List.length_take] at hinside
  omega

/-- Settles O33: `decGsm_cut` on the operation. -/
theorem decgsmCutShort : Obligations.DecgsmCutShort := by
  intro s f n hc hi ha hf hm hb hn hl
  obtain ⟨htext, -, -⟩ := Config.wf_data hc
  exact decgsm_raises hi ha (hl ▸ decGsm_cut htext hf hm hb hn)

end Sys2Proof.Machine
end

section
/-! PROOFS. ENCGSM (43_gsm_pdu.md R215 to R218): what it answers on operands in order, and the first check that fails
otherwise. -/

namespace Sys2Proof.Machine

open Wire

/-! ### The PDU in two parts -/

/-- The octets of the PDU before UDL. -/
def encodedHead (kind enc : Nat) (sca srr : Bool) (addr ts : List Byte) : List Byte :=
  gsmHead kind sca srr ++
  ([low8 (addrBody addr).length, toaOf addr] ++ addrOctets addr ++ [0x00, if enc = 0 then 0x00 else 0x04]) ++
  (if kind = 1 then [0xAD] else tsOctets ts)

/-- The count UDL holds in the end (R217): septets of a text, octets otherwise. -/
def unitCount (c : Config) (enc : Nat) (text : List Byte) : Nat :=
  if enc = 0 then (septetsOf c text).length else text.length

/-- The octets of the user data (R217). -/
def userOctets (c : Config) (enc : Nat) (text : List Byte) : List Byte :=
  if enc = 0 then packSeptets (septetsOf c text) else text

theorem encoded_eq (c : Config) (kind enc : Nat) (sca srr : Bool) (addr ts text : List Byte) :
    encoded c kind enc sca srr addr ts text =
      encodedHead kind enc sca srr addr ts ++ low8 (unitCount c enc text) :: userOctets c enc text := by
  have hdata : (if enc = 0 then BitVec.ofNat 8 (septetsOf c text).length :: packSeptets (septetsOf c text)
      else BitVec.ofNat 8 text.length :: text) = low8 (unitCount c enc text) :: userOctets c enc text := by
    unfold unitCount userOctets
    split <;> rfl
  rw [encoded, hdata]
  simp only [encodedHead, gsmHead, low8, List.append_assoc]

theorem gsmHead_length_le (kind : Nat) (sca srr : Bool) : (gsmHead kind sca srr).length ≤ 3 := by
  unfold gsmHead
  split <;> split <;> simp

section
variable {c : Config} {addr : List Byte} (hc : c.wf = true) (ha : AddressString c addr)
include hc ha

theorem addrOctets_length_le : (addrOctets addr).length ≤ 128 := by
  obtain ⟨-, -, -, hdig, -⟩ := Config.wf_bounds hc
  obtain ⟨hlen, -⟩ := ha
  rw [addrOctets_length]
  omega

theorem encodedHead_length_le (kind enc : Nat) (sca srr : Bool) (ts : List Byte) :
    (encodedHead kind enc sca srr addr ts).length ≤ 142 := by
  have hhead := gsmHead_length_le kind sca srr
  have haddr := addrOctets_length_le hc ha
  have htime : (if kind = 1 then [0xAD] else tsOctets ts).length ≤ 7 := by
    split
    · exact (by decide : 1 ≤ 7)
    · exact le_rfl
  simp only [encodedHead, List.length_append, List.length_cons, List.length_nil]
  omega

/-- Whatever the operands, UDL is within PDU_CAP (R9). -/
theorem encodedHead_length_lt (kind enc : Nat) (sca srr : Bool) (ts : List Byte) :
    (encodedHead kind enc sca srr addr ts).length < c.pduCap := by
  obtain ⟨hpdu, -⟩ := Config.wf_bounds hc
  have hlen := encodedHead_length_le hc ha kind enc sca srr ts
  omega

end

/-! ### The parts of ENCGSM -/

theorem emitAll_fits {c : Config} {l o : List Byte} (h : (o ++ l).length ≤ c.pduCap) :
    emitAll c l o = .ok (o ++ l) := by
  rw [List.length_append] at h
  rw [emitAll_eq c l o (by omega), if_neg (by omega)]

theorem gsmTime_submit {kind : Nat} (h : kind = 1) (ts : List Byte) : gsmTime kind ts = .ok [0xAD] := if_pos h

theorem gsmTime_deliver {kind : Nat} (h : kind = 0) (ts : List Byte) : gsmTime kind ts = encTs ts :=
  if_neg (by omega)

/-- The limit of the user data (R217): UD_OCTETS_MAX octets, of septets or as they are. -/
def tooMuch (c : Config) (enc : Nat) (text : List Byte) : Prop :=
  if enc = 0 then 8 * c.udOctetsMax < 7 * (septetsOf c text).length else c.udOctetsMax < text.length

theorem gsmPayload_tooMuch {c : Config} {enc : Nat} {text o : List Byte} (ho : o.length < c.pduCap)
    (h : tooMuch c enc text) : gsmPayload c enc text o = .error .overflow := by
  unfold tooMuch at h
  rw [gsmPayload, emit, if_neg (Nat.not_le.2 ho), ok_bind]
  split at h
  next he => rw [if_pos he, pack7_eq, if_pos h]; rfl
  next he => rw [if_neg he, if_pos h]

/-- UDL is written as the raw count and, for a text, written again with the septet count (R217). -/
theorem gsmPayload_eq {c : Config} {enc : Nat} {text o : List Byte} (ho : o.length < c.pduCap)
    (h : ¬ tooMuch c enc text) : gsmPayload c enc text o =
      emitAll c (userOctets c enc text) (o ++ [low8 (unitCount c enc text)]) := by
  unfold tooMuch at h
  rw [gsmPayload, emit, if_neg (Nat.not_le.2 ho), ok_bind, userOctets, unitCount]
  split at h
  next he =>
    rw [if_pos he, if_pos he, if_pos he, pack7_eq, if_neg h, ok_bind]
    simp only [List.set_append_right _ _ le_rfl, Nat.sub_self, List.set_cons_zero]
  next he => rw [if_neg he, if_neg he, if_neg he, if_neg h]

/-- What ENCGSM does once its first four checks are passed. -/
def encFields (c : Config) (text addr ts : List Byte) (kind enc : Nat) (sca srr : Bool) : Except Kind (List Byte) := do
  let o ← emitAll c (gsmHead kind sca srr) []
  let (a, d, toa) ← encAddr c addr
  let o ← emitAll c ([low8 d, toa] ++ a ++ [0x00, if enc = 0 then 0x00 else 0x04]) o
  let t ← gsmTime kind ts
  let o ← emitAll c t o
  gsmPayload c enc text o

/-- The first four checks (R218 (a) to (d)). -/
theorem encGsm_eq (c : Config) (text : List Byte) (m : GsmMsg) (kind enc : Nat) (sca srr : Bool) :
    encGsm c text m kind enc sca srr =
      if text.length = 0 then .error .fault
      else if c.textCharsMax < text.length then .error .unsupported
      else if kind ≠ 0 ∧ kind ≠ 1 then .error .unsupported
      else if enc ≠ 0 ∧ enc ≠ 1 then .error .unsupported
      else encFields c text (arrayString m.addr m.addrLen) (arrayString m.ts m.tsLen) kind enc sca srr := rfl

section
variable {c : Config} {text addr ts : List Byte} {kind enc : Nat} {sca srr : Bool} (hc : c.wf = true)
include hc

/-- The first octets always fit (R9). -/
theorem emit_head : emitAll c (gsmHead kind sca srr) [] = .ok (gsmHead kind sca srr) := by
  obtain ⟨hpdu, -⟩ := Config.wf_bounds hc
  have hhead := gsmHead_length_le kind sca srr
  exact emitAll_fits (by rw [List.nil_append]; omega)

theorem encFields_of_not_address (ha : ¬ AddressString c addr) :
    encFields c text addr ts kind enc sca srr = .error .fault := by
  rw [encFields, emit_head hc, ok_bind, encAddr_of_not_address ha, error_bind]

variable (ha : AddressString c addr)
include ha

/-- Past the address, which always fits (R9). -/
theorem encFields_of_address : encFields c text addr ts kind enc sca srr = gsmTime kind ts >>= fun t =>
    emitAll c t (gsmHead kind sca srr ++
      ([low8 (addrBody addr).length, toaOf addr] ++ addrOctets addr ++ [0x00, if enc = 0 then 0x00 else 0x04])) >>=
    gsmPayload c enc text := by
  have hfits := encodedHead_length_lt hc ha kind enc sca srr ts
  rw [encodedHead, List.length_append] at hfits
  rw [encFields, emit_head hc, ok_bind, encAddr_of_address ha, ok_bind]
  dsimp only
  rw [emitAll_fits (Nat.le_of_lt ((Nat.le_add_right _ _).trans_lt hfits)), ok_bind]

theorem encFields_of_not_timestamp (hk : kind = 0) (ht : ¬ TimestampString ts) :
    encFields c text addr ts kind enc sca srr = .error .fault := by
  rw [encFields_of_address hc ha, gsmTime_deliver hk, encTs_of_not_timestamp ht, error_bind]

/-- With its strings in order ENCGSM comes to the user data. -/
theorem encFields_of_strings (hk : kind ≤ 1) (ht : kind = 0 → TimestampString ts) :
    encFields c text addr ts kind enc sca srr =
      gsmPayload c enc text (encodedHead kind enc sca srr addr ts) := by
  have htime : gsmTime kind ts = .ok (if kind = 1 then [0xAD] else tsOctets ts) := by
    by_cases h1 : kind = 1
    · rw [gsmTime_submit h1, if_pos h1]
    · have h0 : kind = 0 := by omega
      rw [gsmTime_deliver h0, if_neg h1, encTs_of_timestamp (ht h0)]
  rw [encFields_of_address hc ha, htime, ok_bind,
    emitAll_fits (Nat.le_of_lt (encodedHead_length_lt hc ha kind enc sca srr ts)), ok_bind]
  rfl

variable (hk : kind ≤ 1) (ht : kind = 0 → TimestampString ts)
include hk ht

theorem encFields_tooMuch (h : tooMuch c enc text) :
    encFields c text addr ts kind enc sca srr = .error .overflow := by
  rw [encFields_of_strings hc ha hk ht, gsmPayload_tooMuch (encodedHead_length_lt hc ha kind enc sca srr ts) h]

/-- The PDU, or OVERFLOW where it passes PDU_CAP. -/
theorem encFields_eq (h : ¬ tooMuch c enc text) : encFields c text addr ts kind enc sca srr =
    if c.pduCap < (encoded c kind enc sca srr addr ts text).length then .error .overflow
    else .ok (encoded c kind enc sca srr addr ts text) := by
  have hudl := encodedHead_length_lt hc ha kind enc sca srr ts
  have hsplit : encoded c kind enc sca srr addr ts text = encodedHead kind enc sca srr addr ts ++
      [low8 (unitCount c enc text)] ++ userOctets c enc text := by
    rw [encoded_eq, List.append_assoc, List.singleton_append]
  rw [encFields_of_strings hc ha hk ht, gsmPayload_eq hudl h,
    emitAll_eq _ _ _ (by rw [List.length_append, List.length_singleton]; exact hudl), hsplit]
  simp only [List.length_append]

end

/-! ### The operation -/

/-- The address string ENCGSM is given. -/
def addressOperand (s : State) : List Byte := arrayString s.msgG.addr s.msgG.addrLen

/-- The timestamp string ENCGSM is given. -/
def stampOperand (s : State) : List Byte := arrayString s.msgG.ts s.msgG.tsLen

/-- The PDU ENCGSM is asked for. -/
def pduOf (s : State) : List Byte :=
  encoded s.cfg s.arg0.toNat s.arg1.toNat (s.arg2.getLsbD 0) (s.arg2.getLsbD 1) (addressOperand s) (stampOperand s)
    (input s)

/-- The state ENCGSM ends OK in. -/
def gsmEncoded (s : State) : State :=
  finish .ok { putOutput s.cfg.pduCap (pduOf s) (start s) with olen := toWord (pduOf s).length }

theorem exec_encgsm_refused {s : State} (h : s.cfg.ibufCap < s.ilen.toNat ∨ 4 ≤ s.arg2.toNat) :
    exec .encgsm s = .next (raise .encgsm .fault (start s)) :=
  (execEncgsm_eq s).trans (congrArg _ (settle_refused (gsmOperands_refused h)))

section
variable {s : State} (hi : s.ilen.toNat ≤ s.cfg.ibufCap) (ha : s.arg2.toNat < 4)
include hi ha

theorem exec_encgsm_error {k : Kind} (h : encGsm s.cfg (input s) s.msgG s.arg0.toNat s.arg1.toNat
    (s.arg2.getLsbD 0) (s.arg2.getLsbD 1) = .error k) :
    exec .encgsm s = .next (raise .encgsm k (start s)) :=
  (execEncgsm_eq s).trans (congrArg _ (settle_error (gsmOperands_ok hi ha) h))

theorem exec_encgsm_ok (h : encGsm s.cfg (input s) s.msgG s.arg0.toNat s.arg1.toNat
    (s.arg2.getLsbD 0) (s.arg2.getLsbD 1) = .ok (pduOf s)) : exec .encgsm s = .next (gsmEncoded s) :=
  (execEncgsm_eq s).trans (congrArg _ (settle_ok (gsmOperands_ok hi ha) h))

end

/-- The operands of ENCGSM pass the checks of R91 and (a) to (d) of R218. -/
structure FirstChecks (s : State) : Prop where
  length : s.ilen.toNat ≤ s.cfg.ibufCap
  flags : s.arg2.toNat < 4
  nonempty : 1 ≤ s.ilen.toNat
  chars : s.ilen.toNat ≤ s.cfg.textCharsMax
  kind : s.arg0.toNat ≤ 1
  encoding : s.arg1.toNat ≤ 1

/-- ENCGSM of operands that pass its first checks is what comes after them. -/
theorem FirstChecks.encGsm_eq {s : State} (h : FirstChecks s) :
    encGsm s.cfg (input s) s.msgG s.arg0.toNat s.arg1.toNat (s.arg2.getLsbD 0) (s.arg2.getLsbD 1) =
      encFields s.cfg (input s) (addressOperand s) (stampOperand s) s.arg0.toNat s.arg1.toNat (s.arg2.getLsbD 0)
        (s.arg2.getLsbD 1) := by
  obtain ⟨-, -, hpos, hchars, hkind, henc⟩ := h
  rw [Machine.encGsm_eq, input_length, if_neg (by omega), if_neg (by omega), if_neg (by omega), if_neg (by omega)]
  rfl

/-- The limits of R217, by the encoding. -/
theorem not_tooMuch_iff {s : State} (h : s.arg1.toNat ≤ 1) : ¬ tooMuch s.cfg s.arg1.toNat (input s) ↔
    (s.arg1.toNat = 0 → 7 * (septetsOf s.cfg (input s)).length ≤ 8 * s.cfg.udOctetsMax) ∧
    (s.arg1.toNat = 1 → s.ilen.toNat ≤ s.cfg.udOctetsMax) := by
  unfold tooMuch
  rw [input_length]
  split <;> omega

/-- Operands that pass the first checks, whose strings encode, whose payload is within its limit and whose PDU has
room. -/
structure Encodable (s : State) : Prop extends FirstChecks s where
  address : AddressString s.cfg (addressOperand s)
  stamp : s.arg0.toNat = 0 → TimestampString (stampOperand s)
  limit : ¬ tooMuch s.cfg s.arg1.toNat (input s)
  room : (pduOf s).length ≤ s.cfg.pduCap

theorem exec_encgsm_encodable {s : State} (hc : s.cfg.wf = true) (h : Encodable s) :
    exec .encgsm s = .next (gsmEncoded s) := by
  refine exec_encgsm_ok h.length h.flags ?_
  rw [h.toFirstChecks.encGsm_eq, encFields_eq hc h.address h.kind h.stamp h.limit]
  exact if_neg (Nat.not_lt.2 h.room)

theorem gsmEncoded_output {s : State} (hc : s.cfg.wf = true) (h : (pduOf s).length ≤ s.cfg.pduCap) :
    OutputIs (pduOf s) (gsmEncoded s) := by
  obtain ⟨-, hobuf, -⟩ := Config.wf_bounds hc
  exact (memRead_putOutput _ _ (start s)).1 (le_min h (h.trans hobuf))

/-- Settles O36: every check passed, the parts stand in order within PDU_CAP. -/
theorem encgsmWrites : Obligations.EncgsmWrites := by
  intro s hc hi ha hpos hchars hkind henc haddr hts htext hoctets p hroom
  have h : Encodable s :=
    { length := hi, flags := ha, nonempty := hpos, chars := hchars, kind := hkind, encoding := henc
      address := haddr, stamp := hts, limit := (not_tooMuch_iff henc).2 ⟨htext, hoctets⟩, room := hroom }
  exact ⟨gsmEncoded s, exec_encgsm_encodable hc h, rfl, gsmEncoded_output hc hroom,
    (memRead_putOutput _ _ (start s)).2⟩

/-- Operands `encGsm` refuses end ENCGSM with its status. -/
theorem encgsm_raises {s : State} {k : Kind} (hi : s.ilen.toNat ≤ s.cfg.ibufCap) (ha : s.arg2.toNat < 4)
    (h : encGsm s.cfg (input s) s.msgG s.arg0.toNat s.arg1.toNat (s.arg2.getLsbD 0) (s.arg2.getLsbD 1) = .error k) :
    ∃ t, exec .encgsm s = .next t ∧ Raised .encgsm k { s with diag := 0 } t :=
  ⟨_, exec_encgsm_error hi ha h, raise_raised _ _ _⟩

theorem FirstChecks.raises {s : State} {k : Kind} (h : FirstChecks s)
    (hk : encFields s.cfg (input s) (addressOperand s) (stampOperand s) s.arg0.toNat s.arg1.toNat (s.arg2.getLsbD 0)
      (s.arg2.getLsbD 1) = .error k) :
    ∃ t, exec .encgsm s = .next t ∧ Raised .encgsm k { s with diag := 0 } t :=
  encgsm_raises h.length h.flags (h.encGsm_eq.trans hk)

/-- Settles O37: the checks in the order of R218, each where those before it are passed. -/
theorem encgsmChecks : Obligations.EncgsmChecks := by
  intro s hc n addr ts septets p Ends
  refine ⟨fun h => ⟨_, exec_encgsm_refused h, raise_raised _ _ _⟩, fun hi ha => ⟨fun h0 => ?_, fun hpos hlong => ?_,
    fun hpos hchars => ⟨fun hkind => ?_, fun hkind henc => ?_, fun hkind henc => ?_⟩⟩⟩
  · exact encgsm_raises hi ha (by rw [encGsm_eq, input_length, if_pos h0])
  · exact encgsm_raises hi ha (by rw [encGsm_eq, input_length, if_neg (by omega), if_pos hlong])
  · exact encgsm_raises hi ha (by
      rw [encGsm_eq, input_length, if_neg (by omega), if_neg (by omega), if_pos (by omega)])
  · exact encgsm_raises hi ha (by
      rw [encGsm_eq, input_length, if_neg (by omega), if_neg (by omega), if_neg (by omega), if_pos (by omega)])
  have hfirst : FirstChecks s :=
    { length := hi, flags := ha, nonempty := hpos, chars := hchars, kind := hkind, encoding := henc }
  refine ⟨fun haddr => ?_, fun haddr h0 hts => ?_, fun haddr hts => ⟨fun h0 hbig => ?_, fun h1 hbig => ?_,
    fun htext hoctets hroom => ?_⟩⟩
  · exact hfirst.raises (encFields_of_not_address hc haddr)
  · exact hfirst.raises (encFields_of_not_timestamp hc haddr h0 hts)
  · exact hfirst.raises (encFields_tooMuch hc haddr hkind hts (by rwa [tooMuch, if_pos h0]))
  · exact hfirst.raises (encFields_tooMuch hc haddr hkind hts (by rwa [tooMuch, if_neg (by omega), input_length]))
  · exact hfirst.raises ((encFields_eq hc haddr hkind hts ((not_tooMuch_iff henc).2 ⟨htext, hoctets⟩)).trans
      (if_pos hroom))

end Sys2Proof.Machine
end

section
/-! PROOFS. The law of the GSM codec (43_gsm_pdu.md R219): what ENCGSM wrote is a well-formed PDU, whose fields DECGSM
reads back as the operands ENCGSM was given. -/

namespace Sys2Proof.Machine

open Host (Outcome)
open Wire

/-! ### What ENCGSM ended OK on -/

/-- Where ENCGSM ended OK, none of its checks failed. -/
theorem exec_encgsm_next {s t : State} (hc : s.cfg.wf = true) (h : exec .encgsm s = .next t) (hok : t.status = 0) :
    Encodable s ∧ t = gsmEncoded s := by
  have not_raised : ∀ k, k ≠ .ok → ¬ ∃ u, exec .encgsm s = .next u ∧ Raised .encgsm k { s with diag := 0 } u := by
    rintro k hk ⟨u, hu, hstatus, -⟩
    obtain rfl : t = u := Outcome.next.inj (h.symm.trans hu)
    exact hk (kindCode_eq_zero.1 (hstatus.symm.trans hok))
  have hfault := not_raised .fault (by decide)
  have hunsupported := not_raised .unsupported (by decide)
  have hoverflow := not_raised .overflow (by decide)
  obtain ⟨hrefused, hchecks⟩ := encgsmChecks s hc
  have hops : ¬ (s.cfg.ibufCap < s.ilen.toNat ∨ 4 ≤ s.arg2.toNat) := fun hr => hfault (hrefused hr)
  have hi : s.ilen.toNat ≤ s.cfg.ibufCap := by omega
  have ha : s.arg2.toNat < 4 := by omega
  obtain ⟨hempty, hlong, hchecks⟩ := hchecks hi ha
  have hpos : 1 ≤ s.ilen.toNat := Nat.pos_of_ne_zero fun h0 => hfault (hempty h0)
  have hchars := Nat.not_lt.1 fun hr => hunsupported (hlong hpos hr)
  obtain ⟨hkinds, hencs, hchecks⟩ := hchecks hpos hchars
  have hkind := Nat.lt_succ_iff.1 (Nat.not_le.1 fun hr => hunsupported (hkinds hr))
  have henc := Nat.lt_succ_iff.1 (Nat.not_le.1 fun hr => hunsupported (hencs hkind hr))
  obtain ⟨haddrs, hstamps, hchecks⟩ := hchecks hkind henc
  have haddr := not_not.1 fun hr => hfault (haddrs hr)
  have hstamp := fun h0 => not_not.1 fun hr => hfault (hstamps haddr h0 hr)
  obtain ⟨htexts, hoctets, hrooms⟩ := hchecks haddr hstamp
  have htext := fun h0 => Nat.not_lt.1 fun hr => hoverflow (htexts h0 hr)
  have hoctets := fun h1 => Nat.not_lt.1 fun hr => hoverflow (hoctets h1 hr)
  have hroom := Nat.not_lt.1 fun hr => hoverflow (hrooms htext hoctets hr)
  have hable : Encodable s :=
    { length := hi, flags := ha, nonempty := hpos, chars := hchars, kind := hkind, encoding := henc
      address := haddr, stamp := hstamp, limit := (not_tooMuch_iff henc).2 ⟨htext, hoctets⟩, room := hroom }
  exact ⟨hable, Outcome.next.inj (h.symm.trans (exec_encgsm_encodable hc hable))⟩

/-! ### The fields of the PDU ENCGSM writes -/

/-- The first octet ENCGSM writes (R216). -/
def firstOctet (kind : Nat) (srr : Bool) : Byte := if kind = 0 then 0x00 else if srr then 0x31 else 0x11

/-- The data-coding scheme ENCGSM writes (R216). -/
def schemeOctet (enc : Nat) : Byte := if enc = 0 then 0x00 else 0x04

/-- Message type, status-report request, header indicator and validity-period format of the first octet (R94). -/
theorem firstOctet_bits {kind : Nat} (hk : kind ≤ 1) (srr : Bool) :
    (firstOctet kind srr).toNat % 4 = kind ∧ ((firstOctet kind srr).getLsbD 5 = true ↔ kind = 1 ∧ srr = true) ∧
      (firstOctet kind srr).getLsbD 6 = false ∧ (kind = 1 → vpOctets (firstOctet kind srr) = 1) := by
  obtain rfl | rfl : kind = 0 ∨ kind = 1 := by omega
  all_goals cases srr <;> decide

theorem alphabetOf_schemeOctet {enc : Nat} (he : enc ≤ 1) : alphabetOf (schemeOctet enc) = some enc := by
  obtain rfl | rfl : enc = 0 ∨ enc = 1 := by omega
  all_goals decide

/-- The fields of the PDU, one by one (R215, R216, R217). -/
def encodedFields (c : Config) (kind enc : Nat) (sca srr : Bool) (addr ts text : List Byte) : GsmFields where
  sca := if sca then [0x00] else []
  fo := firstOctet kind srr
  mr := if kind = 0 then [] else [0x00]
  alen := low8 (addrBody addr).length
  toa := toaOf addr
  adr := addrOctets addr
  pid := 0x00
  dcs := schemeOctet enc
  time := if kind = 1 then [0xAD] else tsOctets ts
  udl := low8 (unitCount c enc text)
  ud := userOctets c enc text

theorem encodedFields_octets (c : Config) (kind enc : Nat) (sca srr : Bool) (addr ts text : List Byte) :
    (encodedFields c kind enc sca srr addr ts text).octets = encoded c kind enc sca srr addr ts text := by
  rw [encoded_eq, encodedHead, gsmHead]
  by_cases hk : kind = 0 <;> simp [GsmFields.octets, GsmFields.head, encodedFields, firstOctet, schemeOctet, hk]

section
variable {c : Config} {kind enc : Nat} {sca srr : Bool} {addr ts text : List Byte}

theorem encodedFields_mti (hk : kind ≤ 1) : (encodedFields c kind enc sca srr addr ts text).mti = kind := by
  obtain ⟨hmti, -⟩ := firstOctet_bits hk srr
  exact hmti

theorem encodedFields_srr (hk : kind ≤ 1) :
    (encodedFields c kind enc sca srr addr ts text).fo.getLsbD 5 = true ↔ kind = 1 ∧ srr = true := by
  obtain ⟨-, hsrr, -⟩ := firstOctet_bits hk srr
  exact hsrr

theorem encodedFields_middleOk (hk : kind ≤ 1) : (encodedFields c kind enc sca srr addr ts text).MiddleOk := by
  obtain ⟨-, -, hudhi, hvp⟩ := firstOctet_bits hk srr
  refine ⟨?_, hudhi⟩
  rw [encodedFields_mti hk]
  obtain rfl | rfl : kind = 0 ∨ kind = 1 := by omega
  · rfl
  · exact (hvp rfl).symm

/-- The stamp of a Deliver is the string ENCTS was given (R185). -/
theorem encodedFields_stamp (hk : kind ≤ 1) (ht : kind = 0 → TimestampString ts) :
    (encodedFields c kind enc sca srr addr ts text).stamp c = if kind = 0 then ts else [] := by
  rw [GsmFields.stamp, encodedFields_mti hk]
  split
  next h0 =>
    show decTs c (if kind = 1 then [0xAD] else tsOctets ts) = ts
    rw [if_neg (by omega), decTs_tsOctets c (ht h0)]
  next => rfl

theorem encodedFields_alphabet (he : enc ≤ 1) :
    alphabetOf (encodedFields c kind enc sca srr addr ts text).dcs = some enc := alphabetOf_schemeOctet he

theorem encodedFields_formatCode (he : enc ≤ 1) :
    (encodedFields c kind enc sca srr addr ts text).formatCode = if enc = 0 then 0 else 1 := by
  rw [GsmFields.formatCode, encodedFields_alphabet he]
  obtain rfl | rfl : enc = 0 ∨ enc = 1 := by omega
  all_goals rfl

/-! ### The address -/

section
variable (hc : c.wf = true) (ha : AddressString c addr)
include hc ha

theorem encodedFields_alen :
    (encodedFields c kind enc sca srr addr ts text).alen.toNat = (addrBody addr).length := by
  obtain ⟨-, -, -, hdig, -⟩ := Config.wf_bounds hc
  obtain ⟨hlen, -⟩ := ha
  exact toNat_low8_of_lt (by omega)

/-- The address reads back (R183). -/
theorem encodedFields_address : (encodedFields c kind enc sca srr addr ts text).address = addr := by
  rw [GsmFields.address, encodedFields_alen hc ha]
  exact (congrArg _ (digits_addrOctets ha)).trans (plus_toaOf_addrBody addr)

theorem encodedFields_headOk (hk : kind ≤ 1) (hfits : addr.length + 1 ≤ c.addrStrCap) :
    (encodedFields c kind enc sca srr addr ts text).HeadOk c sca where
  scaBlock := by
    cases sca with
    | false => rfl
    | true => exact ⟨0, [], rfl, rfl⟩
  type := by rw [encodedFields_mti hk]; omega
  reference := by
    rw [encodedFields_mti hk]
    obtain rfl | rfl : kind = 0 ∨ kind = 1 := by omega
    all_goals rfl
  digits := by rw [encodedFields_alen hc ha]; exact addrOctets_length addr
  decimal := by rw [encodedFields_alen hc ha]; exact nibble_addrOctets_le ha
  fits := by
    rw [encodedFields_alen hc ha]
    exact (congrArg (· + 1) (addrBody_length_add_plus addr)).trans_le hfits

end

/-! ### The user data -/

/-- A payload within its limits has no more units than DECGSM takes. -/
theorem unitCount_le (hmax : 8 * c.udOctetsMax < 7 * (c.textCharsMax + 1))
    (hlimit : ¬ tooMuch c enc text) :
    unitCount c enc text ≤ if enc = 0 then c.textCharsMax else c.udOctetsMax := by
  unfold tooMuch at hlimit
  unfold unitCount
  split at hlimit <;> rename_i h <;> simp only [h, if_true, if_false] <;> omega

section
variable (hc : c.wf = true) (hmax : 8 * c.udOctetsMax < 7 * (c.textCharsMax + 1)) (hlimit : ¬ tooMuch c enc text)
include hc hmax hlimit

theorem encodedFields_udl :
    (encodedFields c kind enc sca srr addr ts text).udl.toNat = unitCount c enc text := by
  obtain ⟨htext, hoctets, hcap⟩ := Config.wf_data hc
  have hcount := unitCount_le hmax hlimit
  refine toNat_low8_of_lt ?_
  split at hcount <;> omega

variable (he : enc ≤ 1)
include he

theorem encodedFields_bodyOk : (encodedFields c kind enc sca srr addr ts text).BodyOk c := by
  have hcount := unitCount_le hmax hlimit
  have hudl := encodedFields_udl (kind := kind) (sca := sca) (srr := srr) (addr := addr) (ts := ts) hc hmax hlimit
  unfold GsmFields.BodyOk
  rw [encodedFields_alphabet he]
  obtain rfl | rfl : enc = 0 ∨ enc = 1 := by omega
  · exact ⟨hudl.trans_le hcount, by rw [hudl]; exact packSeptets_length _⟩
  · exact ⟨hudl.trans_le hcount, hudl.symm⟩

/-- The payload reads back, a text normalised (R167). -/
theorem encodedFields_payload (htables : TablesInverse c) :
    (encodedFields c kind enc sca srr addr ts text).payload c = if enc = 0 then text.map (Wire.norm c) else text := by
  rw [GsmFields.payload, encodedFields_alphabet he, encodedFields_udl hc hmax hlimit]
  obtain rfl | rfl : enc = 0 ∨ enc = 1 := by omega
  · exact (congrArg (unescape c) (septets_packSeptets _)).trans (unescape_septetsOf htables text)
  · rfl

end

end

/-! ### The output, handed back -/

theorem userOctets_length_le {c : Config} (hc : c.wf = true) {enc : Nat} {text : List Byte}
    (hlimit : ¬ tooMuch c enc text) : (userOctets c enc text).length ≤ 255 := by
  obtain ⟨-, hoctets, hcap⟩ := Config.wf_data hc
  unfold tooMuch at hlimit
  unfold userOctets
  split at hlimit
  next h =>
    rw [if_pos h, packSeptets_length]
    exact (ceil8_le _ _ (Nat.not_lt.1 hlimit)).trans (hoctets.trans hcap)
  next h => rw [if_neg h]; omega

/-- OLEN holds the length of the PDU. -/
theorem gsmEncoded_olen {s : State} (hc : s.cfg.wf = true) (h : Encodable s) :
    (gsmEncoded s).olen.toNat = (pduOf s).length := by
  refine toWord_toNat ?_
  have hhead := encodedHead_length_le hc h.address s.arg0.toNat s.arg1.toNat (s.arg2.getLsbD 0) (s.arg2.getLsbD 1)
    (stampOperand s)
  have huser := userOctets_length_le hc h.limit
  rw [pduOf, encoded_eq, List.length_append, List.length_cons]
  omega

theorem input_looped_gsmEncoded {s : State} (hc : s.cfg.wf = true) (h : Encodable s) :
    input (gsmEncoded s).looped = pduOf s :=
  (gsmEncoded_output hc h.room).input_looped (gsmEncoded_olen hc h)

/-- The fields of the PDU ENCGSM is asked for. -/
def fieldsOf (s : State) : GsmFields :=
  encodedFields s.cfg s.arg0.toNat s.arg1.toNat (s.arg2.getLsbD 0) (s.arg2.getLsbD 1) (addressOperand s)
    (stampOperand s) (input s)

/-- A record that says what the fields of the PDU say, says what the operands of ENCGSM were (R219). -/
theorem recordSays_operands {s : State} {m : GsmMsg} (hc : s.cfg.wf = true) (htables : TablesInverse s.cfg)
    (hmax : 8 * s.cfg.udOctetsMax < 7 * (s.cfg.textCharsMax + 1)) (h : Encodable s)
    (hsays : RecordSays m (BitVec.ofNat 2 (fieldsOf s).mti) (fieldsOf s).address ((fieldsOf s).stamp s.cfg)
      (fieldsOf s).formatCode ((fieldsOf s).payload s.cfg)
      (if (fieldsOf s).mti = 1 ∧ (fieldsOf s).fo.getLsbD 5 = true then 1 else 0)) :
    RecordSays m (BitVec.ofNat 2 s.arg0.toNat) (addressOperand s) (if s.arg0 = 0 then stampOperand s else [])
      (if s.arg1 = 0 then 0 else 1) (if s.arg1 = 0 then (input s).map (Wire.norm s.cfg) else input s)
      (if s.arg0 = 1 ∧ s.arg2.getLsbD 1 = true then 1 else 0) := by
  have hword : ∀ x y : Word, x = y ↔ x.toNat = y.toNat := fun x y => BitVec.toNat_inj.symm
  simp only [fieldsOf, encodedFields_mti h.kind, encodedFields_address hc h.address,
    encodedFields_stamp h.kind h.stamp, encodedFields_formatCode h.encoding,
    encodedFields_payload hc hmax h.limit h.encoding htables, encodedFields_srr h.kind, and_self_left] at hsays
  simp only [hword]
  exact hsays

/-- Settles O38: ENCGSM ended OK only on operands in order; its PDU is well formed, and each field reads back. -/
theorem gsmRoundTrip : Obligations.GsmRoundTrip := by
  intro s t hc htables hmax hexec hok hfits holen
  obtain ⟨h, rfl⟩ := exec_encgsm_next hc hexec hok
  have haddr : (addressOperand s).length + 1 ≤ s.cfg.addrStrCap := by
    rw [addressOperand, arrayString, List.length_map, List.length_range]
    exact hfits
  have hinput : input (gsmEncoded s).looped = (fieldsOf s).octets ++ [] := by
    rw [fieldsOf, encodedFields_octets, List.append_nil]
    exact input_looped_gsmEncoded hc h
  obtain ⟨w, hdec, hsays⟩ := exec_decgsm_octets (s := (gsmEncoded s).looped) holen h.flags hc hinput
    (encodedFields_headOk hc h.address h.kind haddr) (encodedFields_middleOk h.kind)
    (encodedFields_bodyOk hc hmax h.limit h.encoding)
  exact ⟨_, hdec, rfl, recordSays_operands hc htables hmax h hsays⟩

end Sys2Proof.Machine
end

section
/-! PROOFS. What a body decoder of DECCDMA is (44_cdma_decode.md R242, R244): a reader, which answers a value exactly
where bits that mean it stand at the cursor within the capacity. A reader is put together from smaller ones, and so is
its grammar, the relation between values and bits. -/

namespace Sys2Proof.Machine

open Wire

/-! ### Bits that stand at a cursor -/

theorem holds_append {m : Memory} {p : Nat} {l l' : List Bool} :
    Holds m p (l ++ l') ↔ Holds m p l ∧ Holds m (p + l.length) l' := by
  simp only [Holds, List.length_append, List.getD_eq_getElem?_getD]
  refine ⟨fun h => ⟨fun i hi => ?_, fun i hi => ?_⟩, fun ⟨h, h'⟩ i hi => ?_⟩
  · rw [h i (by omega), List.getElem?_append_left hi]
  · rw [Nat.add_assoc, h _ (by omega), List.getElem?_append_right (by omega), Nat.add_sub_cancel_left]
  · by_cases hl : i < l.length
    · rw [h i hl, List.getElem?_append_left hl]
    · have := h' (i - l.length) (by omega)
      rwa [Nat.add_assoc, Nat.add_sub_cancel' (by omega), ← List.getElem?_append_right (by omega)] at this

/-- Where `n` bits of a number stand, its low bits are read (R142). -/
theorem holds_bits {m : Memory} {p n v : Nat} : Holds m p (bits n v) ↔ readBits m p n = v % 2 ^ n := by
  simp only [Holds, bits_length]
  refine ⟨fun h => Nat.eq_of_testBit_eq fun i => ?_, fun h i hi => ?_⟩
  · rw [testBit_readBits, Nat.testBit_mod_two_pow]
    by_cases hi : i < n
    · rw [h (n - 1 - i) (by omega), bits_getD _ (by omega), show n - 1 - (n - 1 - i) = i by omega]
    · simp [hi]
  · have hbit := testBit_readBits m p n (n - 1 - i)
    rw [h, Nat.testBit_mod_two_pow, show n - 1 - (n - 1 - i) = i by omega] at hbit
    rw [bits_getD _ hi]
    simpa [show n - 1 - i < n by omega] using hbit.symm

theorem holds_field {m : Memory} {p n : Nat} {v : BitVec n} :
    Holds m p (field v) ↔ v = BitVec.ofNat n (readBits m p n) := by
  rw [field, holds_bits, Nat.mod_eq_of_lt v.isLt, BitVec.toNat_eq, BitVec.toNat_ofNat,
    Nat.mod_eq_of_lt (readBits_lt m p n), eq_comm]

/-- Only one value of a width stands at a place. -/
theorem field_inj_of_holds {m : Memory} {p n : Nat} {v w : BitVec n} (h : Holds m p (field v))
    (h' : Holds m p (field w)) : v = w := (holds_field.1 h).trans (holds_field.1 h').symm

@[simp] theorem field_length {n : Nat} (v : BitVec n) : (field v).length = n := bits_length _ _

/-- Some memory holds any bits. -/
theorem exists_holds (l : List Bool) (p : Nat) : ∃ m, Holds m p l := by
  induction l generalizing p with
  | nil => exact ⟨[], fun i hi => absurd hi (Nat.not_lt_zero i)⟩
  | cons b l ih =>
    obtain ⟨m, hm⟩ := ih (p + 1)
    refine ⟨setStreamBit m p b, fun i hi => ?_⟩
    rw [streamBit_setStreamBit]
    cases i with
    | zero => simp
    | succ i =>
      rw [if_neg (by omega), ← Nat.add_comm 1 i, ← Nat.add_assoc, hm i (by simpa using hi), Nat.add_comm 1 i]
      rfl

/-- The bits `l` stand at the cursor, within its capacity (where there are any). -/
def Stands (ib : Memory) (c : ReadCursor) (l : List Bool) : Prop :=
  Holds ib c.pos l ∧ (l ≠ [] → c.pos + l.length ≤ 8 * c.cap)

/-- The cursor, moved past the bits `l`. -/
def ReadCursor.past (c : ReadCursor) (l : List Bool) : ReadCursor := { c with pos := c.pos + l.length }

theorem stands_of_room {ib : Memory} {c : ReadCursor} {l : List Bool} (h : Holds ib c.pos l)
    (hroom : c.pos + l.length ≤ 8 * c.cap) : Stands ib c l := ⟨h, fun _ => hroom⟩

theorem stands_nil (ib : Memory) (c : ReadCursor) : Stands ib c [] :=
  ⟨fun i hi => absurd hi (Nat.not_lt_zero i), fun h => absurd rfl h⟩

@[simp] theorem past_nil (c : ReadCursor) : c.past [] = c := rfl

theorem past_append (c : ReadCursor) (l l' : List Bool) : c.past (l ++ l') = (c.past l).past l' := by
  simp [ReadCursor.past, Nat.add_assoc]

theorem stands_append {ib : Memory} {c : ReadCursor} {l l' : List Bool} :
    Stands ib c (l ++ l') ↔ Stands ib c l ∧ Stands ib (c.past l) l' := by
  simp only [Stands, ReadCursor.past, holds_append, List.length_append]
  refine ⟨fun ⟨⟨h, h'⟩, hroom⟩ => ⟨⟨h, fun hl => ?_⟩, h', fun hl => ?_⟩,
    fun ⟨⟨h, hl⟩, h', hl'⟩ => ⟨⟨h, h'⟩, fun hne => ?_⟩⟩
  · have := hroom (by simp [hl]); omega
  · have := hroom (by simp [hl]); omega
  · by_cases hnil : l' = []
    · subst hnil
      simpa using hl (by simpa using hne)
    · have := hl' hnil; omega

/-! ### Readers -/

/-- `f` is a reader of the grammar `G`: it answers `v` exactly where bits `l` with `G v l` stand at the cursor, and
moves past them; everywhere else it is `none`, which is `fail` (R244). -/
def Reads {α : Type} (f : Memory → Rd α) (G : α → List Bool → Prop) : Prop :=
  ∀ ib c v c', f ib c = some (v, c') ↔ ∃ l, G v l ∧ Stands ib c l ∧ c' = c.past l

namespace Reads

variable {α β : Type} {f : Memory → Rd α} {G : α → List Bool → Prop}

protected theorem congr {G' : α → List Bool → Prop} (h : Reads f G) (hG : ∀ v l, G v l ↔ G' v l) : Reads f G' := by
  intro ib c v c'
  simp only [h ib c v c', hG]

protected theorem pure (v : α) : Reads (fun _ => pure v) (fun u l => u = v ∧ l = []) := by
  intro ib c u c'
  constructor
  · intro h
    obtain ⟨rfl, rfl⟩ : v = u ∧ c = c' := by simpa [pure, StateT.pure] using h
    exact ⟨[], ⟨rfl, rfl⟩, stands_nil ib c, rfl⟩
  · rintro ⟨l, ⟨rfl, rfl⟩, -, rfl⟩
    rfl

/-- `fail` (R244). -/
protected theorem fail : Reads (fun _ => (failBody : Rd α)) (fun _ _ => False) := by
  intro ib c v c'
  constructor
  · intro h; cases h
  · rintro ⟨_, h, _⟩; exact h.elim

protected theorem rd {n : Nat} (hn : 0 < n) : Reads (fun ib => rd ib n) (fun v l => l = field v) := by
  intro ib c v c'
  have hne : field v ≠ [] := fun h => by simpa [hn.ne'] using congrArg List.length h
  constructor
  · intro h
    obtain ⟨hroom, hv, rfl⟩ := rd_some h
    exact ⟨field v, rfl, stands_of_room (holds_field.2 hv) (by simpa using hroom), by simp [ReadCursor.past]⟩
  · rintro ⟨l, rfl, ⟨hl, hroom⟩, rfl⟩
    have hfits := hroom hne
    rw [field_length] at hfits
    simp only [rd_eq hfits, ← holds_field.1 hl, ReadCursor.past, field_length]

protected theorem bind {g : α → Memory → Rd β} {H : α → β → List Bool → Prop} (hf : Reads f G)
    (hg : ∀ v, Reads (g v) (H v)) :
    Reads (fun ib => f ib >>= fun v => g v ib) (fun u l => ∃ v k k', G v k ∧ H v u k' ∧ l = k ++ k') := by
  intro ib c u c'
  simp only [Bind.bind, StateT.bind, Option.bind_eq_some_iff]
  constructor
  · rintro ⟨⟨v, d⟩, h1, h2⟩
    obtain ⟨k, hk, hs, rfl⟩ := (hf ib c v d).1 h1
    obtain ⟨k', hk', hs', rfl⟩ := (hg v ib _ u c').1 h2
    exact ⟨k ++ k', ⟨v, k, k', hk, hk', rfl⟩, stands_append.2 ⟨hs, hs'⟩, (past_append _ _ _).symm⟩
  · rintro ⟨_, ⟨v, k, k', hk, hk', rfl⟩, hs, rfl⟩
    obtain ⟨hs, hs'⟩ := stands_append.1 hs
    exact ⟨(v, c.past k), (hf ib c v _).2 ⟨k, hk, hs, rfl⟩, (hg v ib _ u _).2 ⟨k', hk', hs', past_append _ _ _⟩⟩

/-- What is read, stored. -/
protected theorem store (hf : Reads f G) (g : α → β) :
    Reads (fun ib => f ib >>= fun v => pure (g v)) (fun u l => ∃ v, G v l ∧ u = g v) :=
  (hf.bind fun v => .pure (g v)).congr fun u l => by simp

protected theorem ite {p : Prop} [Decidable p] {f' : Memory → Rd α} {G' : α → List Bool → Prop} (hf : Reads f G)
    (hf' : Reads f' G') :
    Reads (fun ib => if p then f ib else f' ib) (fun v l => if p then G v l else G' v l) := by
  by_cases h : p
  · simpa only [if_pos h] using hf
  · simpa only [if_neg h] using hf'

/-- A test that fails the body, and the rest of it. -/
protected theorem guarded {p : Prop} [Decidable p] (hf : Reads f G) :
    Reads (fun ib => if p then failBody else f ib) (fun v l => ¬ p ∧ G v l) :=
  (Reads.fail.ite hf).congr fun v l => by split <;> simp [*]

/-- One field, and the rest. -/
protected theorem field {n : Nat} {g : BitVec n → Memory → Rd β} {H : BitVec n → β → List Bool → Prop} (hn : 0 < n)
    (hg : ∀ v, Reads (g v) (H v)) :
    Reads (fun ib => rd ib n >>= fun v => g v ib) (fun u l => ∃ v k, H v u k ∧ l = field v ++ k) :=
  ((Reads.rd hn).bind hg).congr fun u l => by simp

/-- A field that is present only where `p`, and 0 elsewhere, and the rest. -/
protected theorem optional {n : Nat} {p : Prop} [Decidable p] {g : BitVec n → Memory → Rd β}
    {H : BitVec n → β → List Bool → Prop} (hn : 0 < n) (hg : ∀ v, Reads (g v) (H v)) :
    Reads (fun ib => if p then rd ib n >>= fun v => g v ib else pure 0 >>= fun v => g v ib)
      (fun u l => ∃ v k, (¬ p → v = 0) ∧ H v u k ∧ l = (if p then field v else []) ++ k) := by
  by_cases h : p
  · simpa [h] using Reads.field hn hg
  · simpa [h] using hg 0

end Reads

/-- The bits of no value begin the bits of another: where both stand, the reader moves past one of them. -/
theorem Reads.eq_nil_of_append {α : Type} {f : Memory → Rd α} {G : α → List Bool → Prop} (hf : Reads f G) {v v' : α}
    {l l' : List Bool} (h : G v l) (h' : G v' (l ++ l')) : l' = [] := by
  obtain ⟨m, hm⟩ := exists_holds (l ++ l') 0
  have hs : Stands m { cap := (l ++ l').length } (l ++ l') := stands_of_room hm (by simp; omega)
  have h1 := (hf m _ v' _).2 ⟨_, h', hs, rfl⟩
  have h2 := (hf m _ v _).2 ⟨_, h, (stands_append.1 hs).1, rfl⟩
  have hpos := congrArg (fun r => r.2.pos) (Option.some.inj (h1.symm.trans h2))
  simpa [ReadCursor.past] using hpos

end Sys2Proof.Machine
end

section
/-! PROOFS. The grammar of each CDMA body (44_cdma_decode.md R245 to R270): it is read exactly where the body of a
canonical slot, as Sys2Proof/Wire.lean writes it, stands. -/

namespace Sys2Proof.Machine

open Wire

/-! ### Units -/

theorem units_nil {k : Nat} (n : Nat) (us : List (BitVec k)) : units n us 0 = [] := rfl

theorem units_cons {k : Nat} (n : Nat) (u : BitVec k) (us : List (BitVec k)) (count : Nat) :
    units n (u :: us) (count + 1) = bits n u.toNat ++ units n us count := by
  simp [units, List.range_succ_eq_map, List.flatMap_map]

theorem units_length {k : Nat} (n : Nat) (us : List (BitVec k)) (count : Nat) :
    (units n us count).length = n * count := by
  simp [units, Nat.mul_comm]

theorem units_map_setWidth {n k : Nat} (h : n ≤ k) (us : List (BitVec n)) (count : Nat) :
    units n (us.map (fun u => u.setWidth k)) count = units n us count := by
  refine List.flatMap_congr fun i _ => ?_
  congr 1
  cases hi : us[i]? with
  | none => simp [List.getD_eq_getElem?_getD, hi]
  | some u =>
    have := Nat.pow_le_pow_right (show 0 < 2 by decide) h
    simp [List.getD_eq_getElem?_getD, hi, Nat.mod_eq_of_lt (u.isLt.trans_le this)]

theorem Reads.units {n : Nat} (hn : 0 < n) (k : Nat) :
    Reads (fun ib => rdUnits ib n k) (fun us l => us.length = k ∧ l = Wire.units n us k) := by
  induction k with
  | zero => exact (Reads.pure []).congr fun us l => by simp [units_nil]
  | succ k ih =>
    refine (Reads.field hn fun u => ih.store (u :: ·)).congr fun us l => ?_
    constructor
    · rintro ⟨u, _, ⟨us, ⟨rfl, rfl⟩, rfl⟩, rfl⟩
      exact ⟨rfl, (units_cons _ _ _ _).symm⟩
    · rintro ⟨hlen, rfl⟩
      cases us with
      | nil => cases hlen
      | cons u us => exact ⟨u, _, ⟨us, ⟨Nat.succ.inj hlen, rfl⟩, rfl⟩, units_cons _ _ _ _⟩

/-- Units held zero-extended, as many as the count says and each within its width, and then stored. -/
theorem Reads.widened {α : Type} {n w : Nat} (hn : 0 < n) (hw : n ≤ w) (k : Nat) (store : List (BitVec w) → α) :
    Reads (fun ib => rdUnits ib n k >>= fun us => pure (store (us.map (fun u => u.setWidth w))))
      (fun v l => ∃ us, (UnitsOk n us k ∧ l = Wire.units n us k) ∧ v = store us) := by
  refine ((Reads.units hn k).store _).congr fun v l => ?_
  constructor
  · rintro ⟨us, ⟨rfl, rfl⟩, rfl⟩
    refine ⟨_, ⟨⟨List.length_map _, fun u hu => ?_⟩, (units_map_setWidth hw _ _).symm⟩, rfl⟩
    obtain ⟨v, -, rfl⟩ := List.mem_map.1 hu
    rw [BitVec.toNat_setWidth]
    exact (Nat.mod_le _ _).trans_lt v.isLt
  · rintro ⟨us, ⟨⟨rfl, hu⟩, rfl⟩, rfl⟩
    have hback : us = (us.map (fun u => u.setWidth n)).map (fun u => u.setWidth w) := by
      rw [List.map_map]
      refine (List.map_id us).symm.trans (List.map_congr_left fun u h => BitVec.eq_of_toNat_eq ?_)
      have := hu u h
      have := u.isLt
      simp [Nat.mod_eq_of_lt, *]
    exact ⟨_, ⟨List.length_map _, by rw [← units_map_setWidth hw, ← hback]⟩, congrArg store hback⟩

theorem Reads.chari (d : BitVec 1) (k : Nat) :
    Reads (fun ib => rdChari ib d k) (fun us l => UnitsOk (addrUnit d) us k ∧ l = Wire.units (addrUnit d) us k) := by
  by_cases h : d = 1
  · simp only [rdChari, addrUnit, if_pos h]
    exact (Reads.units (by decide) k).congr fun us l => by
      rw [UnitsOk, and_iff_left (fun u _ => u.isLt)]
  · simp only [rdChari, addrUnit, if_neg h]
    exact (Reads.widened (by decide) (by decide) k id).congr fun us l => by simp

/-! ### The bodies of the top-level parameters (R245 to R250) -/

theorem Reads.address (c : Config) :
    Reads (rdAddress c) (fun a l => AddressOk c a ∧ l = Wire.address a) := by
  refine (Reads.field (by decide) fun dm => .field (by decide) fun nm => .optional (by decide) fun nt =>
    .optional (by decide) fun np => .field (by decide) fun fn => .guarded (.store (.chari dm _) _)).congr fun a l => ?_
  constructor
  · rintro ⟨dm, _, ⟨nm, _, ⟨nt, _, hnt, ⟨np, _, hnp, ⟨fn, _, ⟨hfit, us, ⟨hus, rfl⟩, rfl⟩, rfl⟩, rfl⟩, rfl⟩, rfl⟩,
      rfl⟩
    exact ⟨⟨hus, Nat.not_lt.1 hfit, hnt, hnp⟩, by simp [Wire.address, addressHead]⟩
  · rintro ⟨⟨hus, hfit, hnt, hnp⟩, rfl⟩
    exact ⟨a.digitMode, _, ⟨a.numberMode, _, ⟨a.numberType, _, hnt, ⟨a.numberPlan, _, hnp, ⟨a.fieldsNumber, _,
      ⟨Nat.not_lt.2 hfit, a.chari, ⟨hus, rfl⟩, rfl⟩, rfl⟩, rfl⟩, rfl⟩, rfl⟩, by simp [Wire.address, addressHead]⟩

theorem Reads.subaddress (c : Config) :
    Reads (rdSubaddress c) (fun a l => SubaddressOk c a ∧ l = Wire.subaddress a) := by
  refine (Reads.field (by decide) fun ty => .field (by decide) fun odd => .field (by decide) fun fn =>
    .guarded (.store (.units (by decide) _) _)).congr fun a l => ?_
  constructor
  · rintro ⟨ty, _, ⟨odd, _, ⟨fn, _, ⟨hfit, us, ⟨hus, rfl⟩, rfl⟩, rfl⟩, rfl⟩, rfl⟩
    exact ⟨⟨⟨hus, fun u _ => u.isLt⟩, Nat.not_lt.1 hfit⟩, by simp [Wire.subaddress, subaddressHead]⟩
  · rintro ⟨⟨⟨hus, -⟩, hfit⟩, rfl⟩
    exact ⟨a.type, _, ⟨a.odd, _, ⟨a.fieldsNumber, _, ⟨Nat.not_lt.2 hfit, a.chari, ⟨hus, rfl⟩, rfl⟩, rfl⟩, rfl⟩,
      by simp [Wire.subaddress, subaddressHead]⟩

theorem Reads.cause :
    Reads rdCause (fun a l => (a.errorClass = 0 → a.causeCode = 0) ∧ l = Wire.cause a) := by
  refine (Reads.field (by decide) fun rs => .field (by decide) fun ec => .optional (by decide) fun cc =>
    .pure _).congr fun a l => ?_
  constructor
  · rintro ⟨rs, _, ⟨ec, _, ⟨cc, _, hcc, ⟨rfl, rfl⟩, rfl⟩, rfl⟩, rfl⟩
    exact ⟨fun h => hcc (not_not_intro h), by simp [Wire.cause]⟩
  · rintro ⟨hcc, rfl⟩
    exact ⟨a.replySeq, _, ⟨a.errorClass, _, ⟨a.causeCode, _, fun h => hcc (not_not.1 h), ⟨rfl, rfl⟩, rfl⟩, rfl⟩,
      by simp [Wire.cause]⟩

/-- One slot of a record, read by `f`: the value read is that slot of some record. -/
theorem Reads.slot {α ρ : Type} {f : Memory → Rd α} {P : α → Prop} {enc : α → List Bool}
    (hf : Reads f fun v l => P v ∧ l = enc v) (store : α → ρ) (slot : ρ → α)
    (h : ∀ v, slot (store v) = v := by intro _; rfl) :
    Reads (fun ib => f ib >>= fun v => pure (store v))
      (fun r l => ∃ w, P (slot w) ∧ l = enc (slot w) ∧ r = store (slot w)) := by
  refine (hf.store store).congr fun r l => ⟨?_, ?_⟩
  · rintro ⟨v, ⟨hv, hl⟩, hr⟩
    exact ⟨store v, by rw [h]; exact ⟨hv, hl, hr⟩⟩
  · rintro ⟨w, hw, hl, hr⟩
    exact ⟨slot w, ⟨hw, hl⟩, hr⟩

/-- A slot that is one field, of which nothing is asked. -/
theorem Reads.fieldSlot {n : Nat} {ρ : Type} (store : BitVec n → ρ) (slot : ρ → BitVec n)
    (h : ∀ v, slot (store v) = v := by intro _; rfl) (hn : 0 < n := by decide) :
    Reads (fun ib => rd ib n >>= fun v => pure (store v))
      (fun r l => ∃ w, True ∧ l = Wire.field (slot w) ∧ r = store (slot w)) :=
  ((Reads.rd hn).congr (G' := fun v l => True ∧ l = Wire.field v) fun _ _ => by simp).slot store slot h

/-- The body of parameter 0 to 7 is read exactly where the body of a canonical slot stands, and stores the slot. -/
theorem reads_paramBody (c : Config) {id : Nat} (hid : id < 8) (m : CdmaPdu) :
    Reads (fun ib => paramBody c ib id m)
      (fun r l => ∃ v : CdmaPdu, ParamOk c id v ∧ l = param id v ∧ r = copyParam id v m) := by
  match id, hid with
  | 0, _ =>
    exact .fieldSlot (fun v => { m with teleserviceId := v }) CdmaPdu.teleserviceId
  | 1, _ =>
    exact .fieldSlot (fun v => { m with serviceCategory := v }) CdmaPdu.serviceCategory
  | 2, _ =>
    exact (Reads.address c).slot (fun v => { m with origAddr := v }) CdmaPdu.origAddr
  | 3, _ =>
    exact (Reads.subaddress c).slot (fun v => { m with origSubaddr := v }) CdmaPdu.origSubaddr
  | 4, _ =>
    exact (Reads.address c).slot (fun v => { m with destAddr := v }) CdmaPdu.destAddr
  | 5, _ =>
    exact (Reads.subaddress c).slot (fun v => { m with destSubaddr := v }) CdmaPdu.destSubaddr
  | 6, _ =>
    exact .fieldSlot (fun v => { m with bearerReplySeq := v }) CdmaPdu.bearerReplySeq
  | 7, _ =>
    exact Reads.cause.slot (fun v => { m with cause := v }) CdmaPdu.cause
  | _ + 8, h => omega

/-! ### The bodies of the sub-parameters (R252 to R270) -/

theorem udWidth_eq (e : BitVec 5) : udWidth e = if udUnit e = 0 then none else some (udUnit e) := by
  revert e; decide

/-- A tag with a unit width has no message type (R106). -/
theorem udUnit_of_messageType {e : BitVec 5} (h : e = 1 ∨ e = 10) : udUnit e = 0 := by
  rcases h with rfl | rfl <;> rfl

theorem udUnit_le (e : BitVec 5) : udUnit e ≤ 16 := by
  revert e; decide

theorem Reads.userDataRest (c : Config) (e : BitVec 5) :
    Reads (fun ib => rdUserDataRest c ib e)
      (fun u l => UserDataOk c u ∧ u.encoding = e ∧ l = Wire.userDataRest u) := by
  by_cases he : udUnit e = 0
  · simp only [rdUserDataRest, udWidth_eq e, if_pos he]
    refine (Reads.optional (by decide) fun _ => .field (by decide) fun _ => .fail).congr fun u l => ?_
    constructor
    · rintro ⟨_, _, _, ⟨_, _, h, _⟩, _⟩
      exact h.elim
    · rintro ⟨⟨h, _⟩, rfl, _⟩
      exact absurd he h
  · have hm : ¬ (e = 1 ∨ e = 10) := mt udUnit_of_messageType he
    simp only [rdUserDataRest, udWidth_eq e, if_neg he, if_neg hm]
    refine (Reads.bind (.pure 0) fun mt => .field (by decide) fun fn => .guarded
      (.widened (Nat.pos_of_ne_zero he) (udUnit_le e) _ _)).congr fun u l => ?_
    constructor
    · rintro ⟨_, _, _, ⟨rfl, rfl⟩, ⟨fn, _, ⟨hfit, us, ⟨hus, rfl⟩, rfl⟩, rfl⟩, rfl⟩
      exact ⟨⟨he, rfl, hus, Nat.not_lt.1 hfit⟩, rfl, rfl⟩
    · rintro ⟨⟨_, hmt, hus, hfit⟩, rfl, rfl⟩
      exact ⟨0, [], _, ⟨rfl, rfl⟩, ⟨u.fieldsNumber, _, ⟨Nat.not_lt.2 hfit, u.chari, ⟨hus, rfl⟩, by rw [← hmt]⟩,
        rfl⟩, rfl⟩

theorem Reads.date : Reads rdDate (fun d l => True ∧ l = Wire.date d) := by
  refine (Reads.field (by decide) fun yy => .field (by decide) fun mo => .field (by decide) fun dd =>
    .field (by decide) fun hh => .field (by decide) fun mi => .field (by decide) fun ss =>
    .pure _).congr fun d l => ⟨?_, ?_⟩
  · rintro ⟨yy, _, ⟨mo, _, ⟨dd, _, ⟨hh, _, ⟨mi, _, ⟨ss, _, ⟨rfl, rfl⟩, rfl⟩, rfl⟩, rfl⟩, rfl⟩, rfl⟩, rfl⟩
    exact ⟨trivial, by simp [Wire.date]⟩
  · rintro ⟨-, rfl⟩
    exact ⟨_, _, ⟨_, _, ⟨_, _, ⟨_, _, ⟨_, _, ⟨_, _, ⟨rfl, rfl⟩, rfl⟩, rfl⟩, rfl⟩, rfl⟩, rfl⟩, by simp [Wire.date]⟩

theorem callBack_eq (a : CdmaCallBack) : Wire.callBack a = field a.digitMode ++
    ((if a.digitMode = 1 then field a.numberType else []) ++ ((if a.digitMode = 1 then field a.numberPlan else []) ++
      (field a.fieldsNumber ++ Wire.units (addrUnit a.digitMode) a.chari a.fieldsNumber.toNat))) := by
  simp only [Wire.callBack, callBackHead]
  split <;> simp

theorem Reads.callBack (c : Config) :
    Reads (rdCallBack c) (fun a l => CallBackOk c a ∧ l = Wire.callBack a) := by
  refine (Reads.field (by decide) fun dm => .optional (by decide) fun nt => .optional (by decide) fun np =>
    .field (by decide) fun fn => .guarded (.store (.chari dm _) _)).congr fun a l => ⟨?_, ?_⟩
  · rintro ⟨dm, _, ⟨nt, _, hnt, ⟨np, _, hnp, ⟨fn, _, ⟨hfit, us, ⟨hus, rfl⟩, rfl⟩, rfl⟩, rfl⟩, rfl⟩, rfl⟩
    exact ⟨⟨hus, Nat.not_lt.1 hfit, fun h => ⟨hnt h, hnp h⟩⟩, (callBack_eq ⟨dm, nt, np, fn, us⟩).symm⟩
  · rintro ⟨⟨hus, hfit, hn⟩, rfl⟩
    exact ⟨a.digitMode, _, ⟨a.numberType, _, fun h => (hn h).1, ⟨a.numberPlan, _, fun h => (hn h).2,
      ⟨a.fieldsNumber, _, ⟨Nat.not_lt.2 hfit, a.chari, ⟨hus, rfl⟩, rfl⟩, rfl⟩, rfl⟩, rfl⟩, callBack_eq a⟩

/-- The body of an implemented sub-parameter is read exactly where the body of a canonical slot stands, and stores the
slot. -/
theorem reads_subBody (c : Config) {sid : Nat} (hsid : sid ∈ implemented) (b : CdmaBearer) :
    Reads (fun ib => subBody c ib sid b)
      (fun r l => ∃ v : CdmaBearer, SubOk c sid v ∧ l = sub sid v ∧ r = copySub sid v b) := by
  match sid, hsid with
  | 0, _ =>
    refine (Reads.field (by decide) fun mt => .field (by decide) fun id => .field (by decide) fun hi =>
      .pure { b with messageIdentifier := ⟨mt, id, hi⟩ }).congr fun r l => ⟨?_, ?_⟩
    · rintro ⟨mt, _, ⟨id, _, ⟨hi, _, ⟨rfl, rfl⟩, rfl⟩, rfl⟩, rfl⟩
      exact ⟨{ messageIdentifier := ⟨mt, id, hi⟩ }, trivial, by simp [sub], rfl⟩
    · rintro ⟨v, -, rfl, rfl⟩
      exact ⟨_, _, ⟨_, _, ⟨_, _, ⟨rfl, rfl⟩, rfl⟩, rfl⟩, by simp [sub]⟩
  | 1, _ =>
    refine (Reads.field (by decide) fun e => .store (.userDataRest c e) fun u => { b with userData := u }).congr
      fun r l => ⟨?_, ?_⟩
    · rintro ⟨_, _, ⟨u, ⟨hu, rfl, rfl⟩, rfl⟩, rfl⟩
      exact ⟨{ userData := u }, hu, rfl, rfl⟩
    · rintro ⟨v, hv, rfl, rfl⟩
      exact ⟨_, _, ⟨_, ⟨hv, rfl, rfl⟩, rfl⟩, rfl⟩
  | 2, _ =>
    exact .fieldSlot (fun v => { b with userResponseCode := v }) CdmaBearer.userResponseCode
  | 3, _ =>
    exact Reads.date.slot (fun v => { b with messageCenterTimeStamp := v }) CdmaBearer.messageCenterTimeStamp
  | 4, _ =>
    exact Reads.date.slot (fun v => { b with validityPeriodAbsolute := v }) CdmaBearer.validityPeriodAbsolute
  | 5, _ =>
    exact .fieldSlot (fun v => { b with validityPeriodRelative := v }) CdmaBearer.validityPeriodRelative
  | 6, _ =>
    exact Reads.date.slot (fun v => { b with deferredDeliveryTimeAbsolute := v })
      CdmaBearer.deferredDeliveryTimeAbsolute
  | 7, _ =>
    exact .fieldSlot (fun v => { b with deferredDeliveryTimeRelative := v }) CdmaBearer.deferredDeliveryTimeRelative
  | 8, _ =>
    exact .fieldSlot (fun v => { b with priority := v }) CdmaBearer.priority
  | 9, _ =>
    exact .fieldSlot (fun v => { b with privacy := v }) CdmaBearer.privacy
  | 10, _ =>
    refine (Reads.field (by decide) fun ua => .field (by decide) fun da => .field (by decide) fun ra =>
      .field (by decide) fun rp => .pure { b with replyOption := ⟨ua, da, ra, rp⟩ }).congr fun r l => ⟨?_, ?_⟩
    · rintro ⟨ua, _, ⟨da, _, ⟨ra, _, ⟨rp, _, ⟨rfl, rfl⟩, rfl⟩, rfl⟩, rfl⟩, rfl⟩
      exact ⟨{ replyOption := ⟨ua, da, ra, rp⟩ }, trivial, by simp [sub], rfl⟩
    · rintro ⟨v, -, rfl, rfl⟩
      exact ⟨_, _, ⟨_, _, ⟨_, _, ⟨_, _, ⟨rfl, rfl⟩, rfl⟩, rfl⟩, rfl⟩, by simp [sub]⟩
  | 11, _ =>
    exact .fieldSlot (fun v => { b with messageCount := v }) CdmaBearer.messageCount
  | 12, _ =>
    exact .fieldSlot (fun v => { b with alertPriority := v }) CdmaBearer.alertPriority
  | 13, _ =>
    exact .fieldSlot (fun v => { b with language := v }) CdmaBearer.language
  | 14, _ =>
    exact (Reads.callBack c).slot (fun v => { b with callBackNumber := v }) CdmaBearer.callBackNumber
  | 15, _ =>
    exact .fieldSlot (fun v => { b with displayMode := v }) CdmaBearer.displayMode
  | 17, _ =>
    exact .fieldSlot (fun v => { b with depositIndex := v }) CdmaBearer.depositIndex
  | 20, _ =>
    refine (Reads.field (by decide) fun ec => .field (by decide) fun sc =>
      .pure { b with messageStatus := ⟨ec, sc⟩ }).congr fun r l => ⟨?_, ?_⟩
    · rintro ⟨ec, _, ⟨sc, _, ⟨rfl, rfl⟩, rfl⟩, rfl⟩
      exact ⟨{ messageStatus := ⟨ec, sc⟩ }, trivial, by simp [sub], rfl⟩
    · rintro ⟨v, -, rfl, rfl⟩
      exact ⟨_, _, ⟨_, _, ⟨rfl, rfl⟩, rfl⟩, by simp [sub]⟩
  | 21, _ =>
    exact .fieldSlot (fun v => { b with tpFailureCause := v }) CdmaBearer.tpFailureCause
  | 16, h | 18, h | 19, h | _ + 22, h => simp [implemented] at h

end Sys2Proof.Machine
end

section
/-! PROOFS. Where the body of a parameter or a sub-parameter is read and where it is not (44_cdma_decode.md R244): too
few bits, a body that the end of the buffer cuts, a count whose units do not fit, a tag with no unit width. -/

namespace Sys2Proof.Machine

open Wire

/-! ### Where a reader answers nothing (R244) -/

theorem holds_take {m : Memory} {p : Nat} {l : List Bool} (h : Holds m p l) (n : Nat) : Holds m p (l.take n) :=
  (holds_append.1 ((List.take_append_drop n l).symm ▸ h)).1

/-- Only one list of a length stands at a place. -/
theorem holds_unique {m : Memory} {p : Nat} {l l' : List Bool} (h : Holds m p l) (h' : Holds m p l')
    (hlen : l.length = l'.length) : l = l' := by
  refine List.ext_getElem hlen fun i hi hi' => ?_
  have := (h i hi).symm.trans (h' i hi')
  simpa [List.getD_eq_getElem?_getD, hi, hi'] using this

section
variable {α : Type} {f : Memory → Rd α} {G : α → List Bool → Prop}

theorem Reads.eq_none_iff (hf : Reads f G) {ib : Memory} {c : ReadCursor} :
    f ib c = none ↔ ∀ v l, G v l → ¬ Stands ib c l := by
  rw [Option.eq_none_iff_forall_ne_some]
  refine ⟨fun h v l hG hs => h (v, c.past l) ((hf ib c v _).2 ⟨l, hG, hs, rfl⟩), fun h ⟨v, c'⟩ he => ?_⟩
  obtain ⟨l, hG, hs, -⟩ := (hf ib c v c').1 he
  exact h v l hG hs

/-- A body that the end of the buffer cuts is not read (R244 (a)): the bits of another value would be the first bits of
this one. -/
theorem Reads.eq_none_of_endsInside (hf : Reads f G) {s : State} {v : α} {l : List Bool} (hG : G v l) (hl : l ≠ [])
    (h : EndsInside s l) : f s.ibuf s.rc = none := by
  obtain ⟨hcut, hholds⟩ := h
  refine hf.eq_none_iff.2 fun v' l' hG' ⟨hs, hroom⟩ => ?_
  have hshort : l'.length < l.length ∧ l'.length ≤ 8 * s.rc.cap - s.rc.pos := by
    rcases eq_or_ne l' [] with rfl | hne
    · exact ⟨List.length_pos_of_ne_nil hl, Nat.zero_le _⟩
    · have := hroom hne; omega
  have hpre := holds_take hholds l'.length
  rw [List.take_take, Nat.min_eq_left hshort.2] at hpre
  have heq : l' = l.take l'.length := holds_unique hs hpre (by simp; omega)
  have hsplit : l = l' ++ l.drop l'.length := by
    conv_lhs => rw [← List.take_append_drop l'.length l, ← heq]
  have hnil := hf.eq_nil_of_append hG' (hsplit ▸ hG)
  have := congrArg List.length hnil
  simp at this
  omega

end

/-! ### The shortest bodies -/

theorem shortestParam_le {id : Nat} (hid : id < 8) (m : CdmaPdu) :
    0 < shortestParam id ∧ shortestParam id ≤ (param id m).length := by
  have haddr : ∀ a : CdmaAddress, 10 ≤ (address a).length := fun a => by
    simp only [address, addressHead, List.length_append, field_length]; omega
  have hsub : ∀ a : CdmaSubaddress, 12 ≤ (subaddress a).length := fun a => by
    simp only [subaddress, subaddressHead, List.length_append, field_length]; omega
  match id, hid with
  | 0, _ | 1, _ | 6, _ => simp [shortestParam, param]
  | 2, _ | 4, _ => exact ⟨by decide, haddr _⟩
  | 3, _ | 5, _ => exact ⟨by decide, hsub _⟩
  | 7, _ =>
    refine ⟨by decide, ?_⟩
    simp only [param, cause, List.length_append, field_length]
    exact Nat.le_add_right 8 _
  | _ + 8, h => omega

theorem shortestSub_le {sid : Nat} (hsid : sid ∈ implemented) (b : CdmaBearer) :
    0 < shortestSub sid ∧ shortestSub sid ≤ (sub sid b).length := by
  simp only [implemented] at hsid
  fin_cases hsid <;>
    exact ⟨by decide, by simp [shortestSub, sub, date, callBack, callBackHead, userDataRest] <;> omega⟩

theorem param_ne_nil {id : Nat} (hid : id < 8) (m : CdmaPdu) : param id m ≠ [] :=
  List.ne_nil_of_length_pos ((shortestParam_le hid m).1.trans_le (shortestParam_le hid m).2)

theorem sub_ne_nil {sid : Nat} (hsid : sid ∈ implemented) (b : CdmaBearer) : sub sid b ≠ [] :=
  List.ne_nil_of_length_pos ((shortestSub_le hsid b).1.trans_le (shortestSub_le hsid b).2)

/-! ### The bodies, where they stand and where they do not -/

section
variable {c : Config} {ib : Memory} {d : ReadCursor}

theorem paramBody_some {id : Nat} (hid : id < 8) {v : CdmaPdu} (hv : ParamOk c id v) (h : Holds ib d.pos (param id v))
    (hroom : d.pos + (param id v).length ≤ 8 * d.cap) (m : CdmaPdu) :
    paramBody c ib id m d = some (copyParam id v m, d.past (param id v)) :=
  (reads_paramBody c hid m ib d _ _).2 ⟨_, ⟨v, hv, rfl, rfl⟩, stands_of_room h hroom, rfl⟩

theorem paramBody_none {id : Nat} (hid : id < 8)
    (h : ∀ v : CdmaPdu, ParamOk c id v → Holds ib d.pos (param id v) → 8 * d.cap < d.pos + (param id v).length)
    (m : CdmaPdu) : paramBody c ib id m d = none := by
  refine (reads_paramBody c hid m).eq_none_iff.2 ?_
  rintro _ _ ⟨v, hv, rfl, -⟩ ⟨hs, hroom⟩
  exact Nat.not_lt.2 (hroom (param_ne_nil hid v)) (h v hv hs)

theorem paramBody_short {id : Nat} (hid : id < 8) (h : 8 * d.cap < d.pos + shortestParam id) (m : CdmaPdu) :
    paramBody c ib id m d = none :=
  paramBody_none hid (fun v _ _ => by have := (shortestParam_le hid v).2; omega) m

theorem subBody_some {sid : Nat} (hsid : sid ∈ implemented) {v : CdmaBearer} (hv : SubOk c sid v)
    (h : Holds ib d.pos (sub sid v)) (hroom : d.pos + (sub sid v).length ≤ 8 * d.cap) (b : CdmaBearer) :
    subBody c ib sid b d = some (copySub sid v b, d.past (sub sid v)) :=
  (reads_subBody c hsid b ib d _ _).2 ⟨_, ⟨v, hv, rfl, rfl⟩, stands_of_room h hroom, rfl⟩

theorem subBody_none {sid : Nat} (hsid : sid ∈ implemented)
    (h : ∀ v : CdmaBearer, SubOk c sid v → Holds ib d.pos (sub sid v) → 8 * d.cap < d.pos + (sub sid v).length)
    (b : CdmaBearer) : subBody c ib sid b d = none := by
  refine (reads_subBody c hsid b).eq_none_iff.2 ?_
  rintro _ _ ⟨v, hv, rfl, -⟩ ⟨hs, hroom⟩
  exact Nat.not_lt.2 (hroom (sub_ne_nil hsid v)) (h v hv hs)

theorem subBody_short {sid : Nat} (hsid : sid ∈ implemented) (h : 8 * d.cap < d.pos + shortestSub sid)
    (b : CdmaBearer) : subBody c ib sid b d = none :=
  subBody_none hsid (fun v _ _ => by have := (shortestSub_le hsid v).2; omega) b

/-! ### Counts whose units do not fit (R244 (b)) and tags with no unit width (c) -/

theorem addressHead_inj {m : Memory} {p : Nat} {a a' : CdmaAddress} (h : Holds m p (addressHead a))
    (h' : Holds m p (addressHead a')) : a.digitMode = a'.digitMode ∧ a.fieldsNumber = a'.fieldsNumber := by
  simp only [addressHead, List.append_assoc, holds_append, field_length] at h h'
  obtain ⟨hdm, hnm, -, -, hfn⟩ := h
  obtain ⟨hdm', hnm', -, -, hfn'⟩ := h'
  have hd := field_inj_of_holds hdm hdm'
  have hn := field_inj_of_holds hnm hnm'
  simp only [hd, hn, apply_ite List.length, field_length] at hfn hfn'
  exact ⟨hd, field_inj_of_holds hfn hfn'⟩

theorem subaddressHead_inj {m : Memory} {p : Nat} {a a' : CdmaSubaddress} (h : Holds m p (subaddressHead a))
    (h' : Holds m p (subaddressHead a')) : a.fieldsNumber = a'.fieldsNumber := by
  simp only [subaddressHead, holds_append, List.length_append, field_length] at h h'
  exact field_inj_of_holds h.2 h'.2

theorem callBackHead_inj {m : Memory} {p : Nat} {a a' : CdmaCallBack} (h : Holds m p (callBackHead a))
    (h' : Holds m p (callBackHead a')) : a.digitMode = a'.digitMode ∧ a.fieldsNumber = a'.fieldsNumber := by
  simp only [callBackHead, List.append_assoc, holds_append, field_length] at h h'
  obtain ⟨hdm, -, hfn⟩ := h
  obtain ⟨hdm', -, hfn'⟩ := h'
  have hd := field_inj_of_holds hdm hdm'
  simp only [hd, apply_ite List.length, List.length_append, field_length] at hfn hfn'
  exact ⟨hd, field_inj_of_holds hfn hfn'⟩

/-- Where the head of an address that does not fit stands, no address that does stands. -/
theorem not_holds_address {a : CdmaAddress}
    (hbig : c.cdmaAddrCap < ceil8 (a.fieldsNumber.toNat * addrUnit a.digitMode))
    (h : Holds ib d.pos (addressHead a)) {a' : CdmaAddress} (hok : AddressOk c a') :
    ¬ Holds ib d.pos (address a') := by
  intro h'
  obtain ⟨hd, hn⟩ := addressHead_inj h (holds_append.1 h').1
  obtain ⟨-, hfit, -⟩ := hok
  rw [hd, hn] at hbig
  omega

theorem not_holds_subaddress {a : CdmaSubaddress} (hbig : c.cdmaSubaddrCap < a.fieldsNumber.toNat)
    (h : Holds ib d.pos (subaddressHead a)) {a' : CdmaSubaddress} (hok : SubaddressOk c a') :
    ¬ Holds ib d.pos (subaddress a') := by
  intro h'
  have hn := subaddressHead_inj h (holds_append.1 h').1
  rw [hn] at hbig
  exact Nat.not_lt.2 hok.2 hbig

theorem not_holds_callBack {a : CdmaCallBack}
    (hbig : c.cdmaAddrCap < ceil8 (a.fieldsNumber.toNat * addrUnit a.digitMode))
    (h : Holds ib d.pos (callBackHead a)) {a' : CdmaCallBack} (hok : CallBackOk c a') :
    ¬ Holds ib d.pos (callBack a') := by
  intro h'
  obtain ⟨hd, hn⟩ := callBackHead_inj h (holds_append.1 h').1
  obtain ⟨-, hfit, -⟩ := hok
  rw [hd, hn] at hbig
  omega

/-- Where a tag stands, and behind it a count whose units do not fit, no user data that fits stands. -/
theorem not_holds_userData {u : CdmaUserData} (hbig : c.cdmaUdCap < ceil8 (u.fieldsNumber.toNat * udUnit u.encoding))
    (h : Holds ib d.pos (field u.encoding ++ field u.fieldsNumber)) {u' : CdmaUserData} (hok : UserDataOk c u') :
    ¬ Holds ib d.pos (field u'.encoding ++ userDataRest u') := by
  intro h'
  simp only [userDataRest, holds_append, field_length] at h h'
  obtain ⟨-, -, -, hfit⟩ := hok
  rw [field_inj_of_holds h.1 h'.1, field_inj_of_holds h.2 h'.2.1] at hbig
  omega

theorem not_holds_noWidth {e : BitVec 5} (he : udUnit e = 0) (h : Holds ib d.pos (field e)) {u : CdmaUserData}
    (hok : UserDataOk c u) : ¬ Holds ib d.pos (field u.encoding ++ userDataRest u) := by
  intro h'
  refine hok.1 ?_
  rw [← field_inj_of_holds h (holds_append.1 h').1, he]

end

end Sys2Proof.Machine
end

section
/-! PROOFS. The header of a parameter, of a sub-parameter and of user data as a step (44_cdma_decode.md R242, R243,
R251, R253, log 11): each branch of the dispatch, said once, and what is stored or skipped on it. -/

namespace Sys2Proof.Machine

open Wire
open Host (Outcome)

/-! ### One parameter, one sub-parameter: each branch (R242, R243, R251) -/

section
variable {c : Config} {ib : Memory} {x : DecodeCtx}

theorem lengthMismatch_eq_false {e : Option Nat} {n : Nat} :
    lengthMismatch e n = false ↔ ∀ k, e = some k → n = k := by
  cases e <;> simp [lengthMismatch]

theorem paramLength_eq (id : Nat) : paramLength id = paramExpected id := by
  unfold paramLength paramExpected
  split <;> simp_all

theorem subLength_eq : ∀ sid ∈ implemented, subLength sid = subExpected sid := by decide

theorem knownSub_iff {sid : Nat} : knownSub sid = true ↔ sid ∈ implemented := by
  simp [knownSub, implemented]
  omega

theorem decodeParamBody_unknown {id : Nat} (h : 8 < id) (len : Nat) :
    decodeParamBody c ib id len x = resync (x.rc.pos / 8 + len) (flagDiag diagUnknownId x) := by
  rw [decodeParamBody, if_pos h]

theorem decodeParamBody_mismatch {id len : Nat} (hid : id < 8) (h : ¬ ∀ k, paramExpected id = some k → len = k) :
    decodeParamBody c ib id len x = resync (x.rc.pos / 8 + len) (flagDiag diagLenMismatch x) := by
  rw [← lengthMismatch_eq_false, Bool.not_eq_false, ← paramLength_eq] at h
  rw [decodeParamBody, if_neg (by omega), if_pos h]

theorem decodeParamBody_fail {id len : Nat} (hid : id < 8) (h : ∀ k, paramExpected id = some k → len = k)
    (hb : paramBody c ib id x.m x.rc = none) :
    decodeParamBody c ib id len x = resync (x.rc.pos / 8 + len) (flagDiag diagBodyFail x) := by
  rw [← lengthMismatch_eq_false, ← paramLength_eq] at h
  rw [decodeParamBody, if_neg (by omega), h, if_neg (by decide), if_neg (by omega), hb]

theorem decodeParamBody_store {id len : Nat} (hid : id < 8) (h : ∀ k, paramExpected id = some k → len = k)
    {m : CdmaPdu} {d : ReadCursor} (hb : paramBody c ib id x.m x.rc = some (m, d)) :
    decodeParamBody c ib id len x = resync (x.rc.pos / 8 + len) { x with m := withParamBit id m } := by
  rw [← lengthMismatch_eq_false, ← paramLength_eq] at h
  rw [decodeParamBody, if_neg (by omega), h, if_neg (by decide), if_neg (by omega), hb]
  rfl

theorem decodeParamBody_bearer (len : Nat) :
    decodeParamBody c ib 8 len x = resync (x.rc.pos / 8 + len) (decodeBearer c ib len x) := rfl

theorem decodeSub_unknown {sid : Nat} (h : sid ∉ implemented) (len : Nat) :
    decodeSub c ib sid len x = resync (min (x.rc.pos / 8 + len) x.bEnd) (flagDiag diagUnknownId x) := by
  rw [← knownSub_iff, Bool.not_eq_true] at h
  rw [decodeSub, if_pos h]

theorem decodeSub_mismatch {sid len : Nat} (hsid : sid ∈ implemented)
    (h : ¬ ∀ k, subExpected sid = some k → len = k) :
    decodeSub c ib sid len x = resync (min (x.rc.pos / 8 + len) x.bEnd) (flagDiag diagLenMismatch x) := by
  rw [← lengthMismatch_eq_false, Bool.not_eq_false, ← subLength_eq sid hsid] at h
  rw [decodeSub, knownSub_iff.2 hsid, if_neg (by decide), if_pos h]

theorem decodeSub_fail {sid len : Nat} (hsid : sid ∈ implemented) (h : ∀ k, subExpected sid = some k → len = k)
    (hb : subBody c ib sid x.b x.rc = none) :
    decodeSub c ib sid len x = resync (min (x.rc.pos / 8 + len) x.bEnd) (flagDiag diagBodyFail x) := by
  rw [← lengthMismatch_eq_false, ← subLength_eq sid hsid] at h
  rw [decodeSub, knownSub_iff.2 hsid, if_neg (by decide), h, if_neg (by decide), hb]

theorem decodeSub_store {sid len : Nat} (hsid : sid ∈ implemented) (h : ∀ k, subExpected sid = some k → len = k)
    {b : CdmaBearer} {d : ReadCursor} (hb : subBody c ib sid x.b x.rc = some (b, d)) :
    decodeSub c ib sid len x = resync (min (x.rc.pos / 8 + len) x.bEnd) { x with b := withSubBit sid b } := by
  rw [← lengthMismatch_eq_false, ← subLength_eq sid hsid] at h
  rw [decodeSub, knownSub_iff.2 hsid, if_neg (by decide), h, if_neg (by decide), hb]
  rfl

end

/-! ### The headers of the parameters, as steps -/

/-- The state after an element that is skipped with DIAG bit `d`, RC set to octet `n` (R242). -/
def State.skipped (d : Word) (n : Nat) (s : State) : State :=
  { s with diag := s.diag ||| d, rc := { s.rc with pos := 8 * n } }

theorem putDecode_resync (d : Word) (n : Nat) (s : State) :
    s.putDecode (resync n (flagDiag d s.decodeCtx)) = s.skipped d (min n s.rc.cap) := rfl

section
variable {s : State} {len : Byte} {x : Nat × Instr}

theorem exec_param (hop : s.work.op ≠ .enccdma) (hx : x ∈ paramInstrs len) :
    x.1 < 8 ∧ exec x.2 s = .next (s.putDecode (decodeParamBody s.cfg s.ibuf x.1 len.toNat s.decodeCtx)) := by
  simp only [paramInstrs, List.mem_cons, List.not_mem_nil, or_false] at hx
  rcases hx with rfl | rfl | rfl | rfl | rfl | rfl | rfl | rfl <;>
    exact ⟨by simp, congrArg Outcome.next (if_neg hop)⟩

theorem exec_param_fail (hop : s.work.op ≠ .enccdma) (hx : x ∈ paramInstrs len)
    (hl : LengthOk (paramExpected x.1) len) (hb : paramBody s.cfg s.ibuf x.1 s.work.m s.rc = none) :
    exec x.2 s = .next (s.skipped diagBodyFail (resyncOctet (s.rc.pos / 8) len.toNat s.rc.cap)) := by
  obtain ⟨hid, hexec⟩ := exec_param hop hx
  rw [hexec, decodeParamBody_fail hid hl hb, putDecode_resync]
  rfl

/-- Settles O52: the body of a canonical slot is read, stored and marked. -/
theorem parameterDecodes : Obligations.ParameterDecodes := by
  intro s v len hop x hx hl hv h hroom
  obtain ⟨hid, hexec⟩ := exec_param hop hx
  rw [hexec, decodeParamBody_store hid hl (paramBody_some hid hv h hroom _)]
  rfl

/-- No body that the record could hold stands at RC. -/
theorem exec_param_absent {id : Nat} {i : Instr} (hop : s.work.op ≠ .enccdma) (hx : (id, i) ∈ paramInstrs len)
    (hl : LengthOk (paramExpected id) len)
    (h : ∀ v : CdmaPdu, ParamOk s.cfg id v → ¬ Holds s.ibuf s.rc.pos (param id v)) :
    exec i s = .next (s.skipped diagBodyFail (resyncOctet (s.rc.pos / 8) len.toNat s.rc.cap)) :=
  exec_param_fail hop hx hl (paramBody_none (exec_param hop hx).1 (fun v hv hs => absurd hs (h v hv)) _)

/-- Settles O53: the identifier and the length are tested first; then the body is read or not, and where the buffer
cuts it, or where the head of one that does not fit stands, no body that could be read stands. -/
theorem parameterSkipped : Obligations.ParameterSkipped := by
  intro s len hop Skips
  refine ⟨fun id hid => ?_, fun x hx hl => ?_, fun x hx hl hcut => ?_, fun x hx hl v hv hcut => ?_,
    fun a hbig h => ⟨?_, ?_⟩, fun a hbig h => ⟨?_, ?_⟩⟩
  · have hexec : exec (.pUnknown id len) s =
        .next (s.putDecode (decodeParamBody s.cfg s.ibuf id.toNat len.toNat s.decodeCtx)) :=
      congrArg Outcome.next (if_neg hop)
    exact hexec.trans (congrArg _ (by rw [decodeParamBody_unknown hid]; rfl))
  · obtain ⟨hid, hexec⟩ := exec_param hop hx
    exact hexec.trans (congrArg _ (by rw [decodeParamBody_mismatch hid hl]; rfl))
  · exact exec_param_fail hop hx hl (paramBody_short (exec_param hop hx).1 hcut _)
  · obtain ⟨hid, -⟩ := exec_param hop hx
    exact exec_param_fail hop hx hl
      ((reads_paramBody _ hid _).eq_none_of_endsInside ⟨v, hv, rfl, rfl⟩ (param_ne_nil hid v) hcut)
  · exact exec_param_absent (id := 2) hop (by simp [paramInstrs]) nofun fun _ => not_holds_address hbig h
  · exact exec_param_absent (id := 4) hop (by simp [paramInstrs]) nofun fun _ => not_holds_address hbig h
  · exact exec_param_absent (id := 3) hop (by simp [paramInstrs]) nofun fun _ => not_holds_subaddress hbig h
  · exact exec_param_absent (id := 5) hop (by simp [paramInstrs]) nofun fun _ => not_holds_subaddress hbig h

/-! ### The headers of the sub-parameters, as steps -/

theorem resyncOctet_zero (n cap : Nat) : resyncOctet 0 n cap = min n cap := by rw [resyncOctet, Nat.zero_add]

theorem exec_sub (hop : s.work.op ≠ .enccdma) (hx : x ∈ subInstrs len) :
    x.1 ∈ implemented ∧ exec x.2 s = .next (s.putDecode (decodeSub s.cfg s.ibuf x.1 len.toNat s.decodeCtx)) := by
  simp only [subInstrs, List.mem_cons, List.not_mem_nil, or_false] at hx
  rcases hx with rfl | rfl | rfl | rfl | rfl | rfl | rfl | rfl | rfl | rfl | rfl | rfl | rfl | rfl | rfl | rfl | rfl |
    rfl | rfl <;> exact ⟨by simp [implemented], congrArg Outcome.next (if_neg hop)⟩

theorem exec_bodiless (hop : s.work.op ≠ .enccdma) (hx : x ∈ bodilessInstrs len) :
    x.1 ∉ implemented ∧ exec x.2 s = .next (s.putDecode (decodeSub s.cfg s.ibuf x.1 len.toNat s.decodeCtx)) := by
  simp only [bodilessInstrs, List.mem_cons, List.not_mem_nil, or_false] at hx
  rcases hx with rfl | rfl | rfl | rfl | rfl <;>
    exact ⟨by simp [implemented], congrArg Outcome.next (if_neg hop)⟩

theorem exec_sub_fail (hop : s.work.op ≠ .enccdma) (hx : x ∈ subInstrs len)
    (hl : LengthOk (subExpected x.1) len) (hb : subBody s.cfg s.ibuf x.1 s.work.b s.rc = none) :
    exec x.2 s =
      .next (s.skipped diagBodyFail (resyncOctet 0 (min (s.rc.pos / 8 + len.toNat) s.work.bEnd) s.rc.cap)) := by
  obtain ⟨hsid, hexec⟩ := exec_sub hop hx
  rw [hexec, decodeSub_fail hsid hl hb, putDecode_resync, resyncOctet_zero]
  rfl

/-- No body that the record could hold stands at RC. -/
theorem exec_sub_absent {sid : Nat} {i : Instr} (hop : s.work.op ≠ .enccdma) (hx : (sid, i) ∈ subInstrs len)
    (hl : LengthOk (subExpected sid) len)
    (h : ∀ v : CdmaBearer, SubOk s.cfg sid v → ¬ Holds s.ibuf s.rc.pos (sub sid v)) :
    exec i s = .next (s.skipped diagBodyFail (resyncOctet 0 (min (s.rc.pos / 8 + len.toNat) s.work.bEnd) s.rc.cap)) :=
  exec_sub_fail hop hx hl (subBody_none (exec_sub hop hx).1 (fun v hv hs => absurd hs (h v hv)) _)

/-- Settles O56: the body of a canonical slot is read, stored and marked. -/
theorem subparameterDecodes : Obligations.SubparameterDecodes := by
  intro s v len hop x hx hl hv h hroom
  obtain ⟨hsid, hexec⟩ := exec_sub hop hx
  rw [hexec, decodeSub_store hsid hl (subBody_some hsid hv h hroom _), resyncOctet_zero]
  rfl

/-- Settles O57: as for the parameters; a kind with no body is an identifier that is not implemented. -/
theorem subparameterSkipped : Obligations.SubparameterSkipped := by
  intro s len hop Skips
  have hunknown : ∀ sid i, sid ∉ implemented →
      exec i s = .next (s.putDecode (decodeSub s.cfg s.ibuf sid len.toNat s.decodeCtx)) → Skips i 1 := by
    intro sid i hsid hexec
    exact hexec.trans (congrArg _ (by rw [decodeSub_unknown hsid, resyncOctet_zero]; rfl))
  refine ⟨fun x hx => ?_, fun id hid => ?_, fun x hx hl => ?_, fun x hx hl hcut => ?_, fun x hx hl v hv hcut => ?_,
    fun a hbig h => ?_, fun u hbig h => ?_, fun e he h => ?_⟩
  · obtain ⟨hsid, hexec⟩ := exec_bodiless hop hx
    exact hunknown _ _ hsid hexec
  · refine hunknown id.toNat _ (fun h => ?_) (congrArg Outcome.next (if_neg hop))
    have : id.toNat ≤ 21 := (by decide : ∀ i ∈ implemented, i ≤ 21) _ h
    omega
  · obtain ⟨hsid, hexec⟩ := exec_sub hop hx
    exact hexec.trans (congrArg _ (by rw [decodeSub_mismatch hsid hl, resyncOctet_zero]; rfl))
  · exact exec_sub_fail hop hx hl (subBody_short (exec_sub hop hx).1 hcut _)
  · obtain ⟨hsid, -⟩ := exec_sub hop hx
    exact exec_sub_fail hop hx hl
      ((reads_subBody _ hsid _).eq_none_of_endsInside ⟨v, hv, rfl, rfl⟩ (sub_ne_nil hsid v) hcut)
  · exact exec_sub_absent (sid := 14) hop (by simp [subInstrs]) nofun fun _ => not_holds_callBack hbig h
  · exact exec_sub_absent (sid := 1) hop (by simp [subInstrs]) nofun fun _ => not_holds_userData hbig h
  · exact exec_sub_absent (sid := 1) hop (by simp [subInstrs]) nofun fun _ => not_holds_noWidth he h

/-! ### The encoding tags, as steps -/

theorem exec_encoding_some {i : Instr} {e : BitVec 5} (hop : s.work.op ≠ .enccdma)
    (hi : exec i s = .next (encodingElement e s)) {u : CdmaUserData} (hu : UserDataOk s.cfg u) (he : u.encoding = e)
    (h : Stands s.ibuf s.rc (userDataRest u)) :
    exec i s = .next { s with
      rc := s.rc.past (userDataRest u)
      work := { s.work with b := withSubBit 1 { s.work.b with userData := u } } } := by
  have hr : rdUserDataRest s.cfg s.ibuf e s.rc = some (u, s.rc.past (userDataRest u)) :=
    (Reads.userDataRest s.cfg e s.ibuf s.rc u _).2 ⟨_, ⟨hu, he, rfl⟩, h, rfl⟩
  rw [hi, encodingElement, if_neg hop, hr]
  rfl

theorem exec_encoding_none {i : Instr} {e : BitVec 5} (hop : s.work.op ≠ .enccdma)
    (hi : exec i s = .next (encodingElement e s))
    (h : ∀ u : CdmaUserData, UserDataOk s.cfg u → u.encoding = e → ¬ Stands s.ibuf s.rc (userDataRest u)) :
    exec i s = .next { s with diag := s.diag ||| 4 } := by
  have hr : rdUserDataRest s.cfg s.ibuf e s.rc = none := (Reads.userDataRest s.cfg e).eq_none_iff.2
    fun u _ ⟨hu, he, hl⟩ => hl ▸ h u hu he
  rw [hi, encodingElement, if_neg hop, hr]
  rfl

theorem exec_handledTag {x : Instr × BitVec 5 × Nat} (hx : x ∈ handledTags) :
    exec x.1 s = .next (encodingElement x.2.1 s) ∧ udUnit x.2.1 = x.2.2 := by
  simp only [handledTags, List.mem_cons, List.not_mem_nil, or_false] at hx
  rcases hx with rfl | rfl | rfl | rfl | rfl | rfl | rfl <;> exact ⟨rfl, rfl⟩

theorem udUnit_of_gt {e : BitVec 5} (h : 10 < e.toNat) : udUnit e = 0 := by
  revert e; decide

/-- Settles O59: behind a tag with a unit width stands user data that the record can hold, or there stands none; a tag
with no unit width has none. -/
theorem encodingDecodes : Obligations.EncodingDecodes := by
  intro s hop
  have hnoWidth : ∀ {i e}, udUnit e = 0 → exec i s = .next (encodingElement e s) →
      exec i s = .next { s with diag := s.diag ||| 4 } := fun he hi =>
    exec_encoding_none hop hi fun u hu henc => absurd (henc ▸ he) hu.1
  refine ⟨fun x hx v henc hv h hroom => ?_, fun x hx n h hbad => ?_, fun i hi => ?_, fun tag ht =>
    hnoWidth (udUnit_of_gt ht) rfl⟩
  · obtain ⟨hexec, hw⟩ := exec_handledTag (s := s) hx
    rw [← henc] at hw
    have hlen : (userDataRest v).length = 8 + x.2.2 * v.fieldsNumber.toNat := by
      rw [userDataRest, List.length_append, field_length, units_length, hw]
    rw [← hlen] at hroom ⊢
    refine exec_encoding_some hop hexec hv henc (stands_of_room ?_ hroom)
    rw [userDataRest, hw]
    exact h
  · obtain ⟨hexec, hw⟩ := exec_handledTag (s := s) hx
    refine exec_encoding_none hop hexec fun u ⟨_, _, _, hfit⟩ henc ⟨h', hroom⟩ => ?_
    have hn : n = u.fieldsNumber := field_inj_of_holds h (holds_append.1 h').1
    have hlen := hroom (List.append_ne_nil_of_left_ne_nil (by simp [field, bits]) _)
    rw [userDataRest, List.length_append, field_length, units_length, henc, hw, ← hn] at hlen
    rw [ceil8, henc, hw, ← hn] at hfit
    omega
  · simp only [List.mem_cons, List.not_mem_nil, or_false] at hi
    rcases hi with rfl | rfl | rfl | rfl <;> exact hnoWidth rfl rfl

end

end Sys2Proof.Machine
end

section
/-! PROOFS. The header of Bearer Data (44_cdma_decode.md R251): the loop over the sub-parameters with its fuel put
away, what it answers on the TLVs of a canonical bearer, and what it leaves alone on any octets. -/

namespace Sys2Proof.Machine

open Wire
open Host (Outcome)

/-! ### The loop without its fuel -/

/-- The loop of D_8, given as much fuel as the buffer has octets. -/
def subRun (c : Config) (ib : Memory) (x : DecodeCtx) : DecodeCtx := subLoop c ib x.rc.cap x

section
variable {c : Config} {ib : Memory} {x : DecodeCtx}

theorem subRun_done (h : x.bEnd ≤ x.rc.pos / 8) : subRun c ib x = x := by
  rw [subRun]
  cases x.rc.cap with
  | zero => rfl
  | succ n => rw [subLoop, if_pos h]

theorem subRun_trunc (hcap : x.bEnd ≤ x.rc.cap) (h : x.rc.pos / 8 < x.bEnd) (h' : x.bEnd < x.rc.pos / 8 + 2) :
    subRun c ib x = flagDiag diagTrunc x := by
  obtain ⟨n, hn⟩ := Nat.exists_eq_add_one_of_ne_zero (show x.rc.cap ≠ 0 by omega)
  rw [subRun, hn, subLoop, if_neg (Nat.not_le.2 h), if_pos h']

/-- One sub-parameter whose header fits, and the rest. -/
theorem subRun_step (hcap : x.bEnd ≤ x.rc.cap) (h : x.rc.pos / 8 + 2 ≤ x.bEnd) :
    subRun c ib x = subRun c ib (decodeSub c ib (readBits ib x.rc.pos 8) (readBits ib (x.rc.pos + 8) 8)
      { x with rc := { x.rc with pos := x.rc.pos + 16 } }) := by
  obtain ⟨n, hn⟩ := Nat.exists_eq_add_one_of_ne_zero (show x.rc.cap ≠ 0 by omega)
  rw [subRun, hn, subLoop, if_neg (by omega), if_neg (by omega), subRun]
  refine subLoop_fuel c ib _ _ _ ?_ ?_ ?_ <;> rw [decodeSub_bEnd, decodeSub_rc] <;> simp only <;> omega

theorem decodeBearer_eq (len : Nat) : decodeBearer c ib len x =
    { subRun c ib { x with b := {}, bEnd := min (x.rc.pos / 8 + len) x.rc.cap } with
      m := withParamBit 8 { (subRun c ib { x with b := {}, bEnd := min (x.rc.pos / 8 + len) x.rc.cap }).m with
        bearer := (subRun c ib { x with b := {}, bEnd := min (x.rc.pos / 8 + len) x.rc.cap }).b } } := rfl

end

/-! ### One TLV -/

theorem pad_length (l : List Bool) : (pad l).length = 8 * ceil8 l.length := by
  have := ceil8_mul l.length
  simp [pad]
  omega

theorem tlv_length (id : Nat) (l : List Bool) : (Wire.tlv id l).length = 16 + 8 * ceil8 l.length := by
  simp [Wire.tlv, pad_length]
  omega

/-- A body of fixed length has its expected length (R104). -/
theorem ceil8_sub_length {sid : Nat} (hsid : sid ∈ implemented) (b : CdmaBearer) :
    ∀ k, subExpected sid = some k → ceil8 (sub sid b).length = k := by
  simp only [implemented] at hsid
  fin_cases hsid <;> simp [subExpected, sub, date, ceil8]

theorem implemented_le {i : Nat} (h : i ∈ implemented) : i ≤ 21 := (by decide : ∀ i ∈ implemented, i ≤ 21) i h

section
variable {c : Config} {ib : Memory} {x : DecodeCtx} {v : CdmaBearer}

/-- The TLV of a canonical slot is taken whole: the slot is stored and marked, the cursor stands behind its padding. -/
theorem subRun_tlv {i : Nat} (hi : i ∈ implemented) (hv : SubOk c i v) (hcap : x.bEnd ≤ x.rc.cap)
    (hpos : x.rc.pos % 8 = 0) (hlen : ceil8 (sub i v).length ≤ 255) (h : Holds ib x.rc.pos (Wire.tlv i (sub i v)))
    (hroom : x.rc.pos + (Wire.tlv i (sub i v)).length ≤ 8 * x.bEnd) :
    subRun c ib x = subRun c ib
      { x with rc := x.rc.past (Wire.tlv i (sub i v)), b := withSubBit i (copySub i v x.b) } := by
  have hle := implemented_le hi
  have hpad := ceil8_mul (sub i v).length
  rw [tlv_length] at hroom
  simp only [Wire.tlv, List.append_assoc, holds_append, bits_length, pad, Nat.add_assoc, Nat.reduceAdd] at h
  obtain ⟨hid, hl, hbody, -⟩ := h
  rw [holds_bits, Nat.mod_eq_of_lt (by omega)] at hid hl
  have hend : 8 * min (min ((x.rc.pos + 16) / 8 + ceil8 (sub i v).length) x.bEnd) x.rc.cap =
      x.rc.pos + (16 + 8 * ceil8 (sub i v).length) := by omega
  have hsome := subBody_some (c := c) (d := { x.rc with pos := x.rc.pos + 16 }) hi hv hbody (by simp only; omega) x.b
  have hstore := decodeSub_store (x := { x with rc := { x.rc with pos := x.rc.pos + 16 } }) hi
    (ceil8_sub_length hi v) hsome
  rw [subRun_step hcap (by omega), hid, hl, hstore, resync, seek]
  simp only [hend, ReadCursor.past, tlv_length]

/-- The TLV of sub-parameter `i` of `v`, where its mask bit is set (R310). -/
def subTlv (v : CdmaBearer) (i : Nat) : List Bool :=
  if v.subParameterMask.getLsbD i then Wire.tlv i (sub i v) else []

/-- Slot `i` of `v` stored and marked, where its mask bit is set. -/
def takeSub (v b : CdmaBearer) (i : Nat) : CdmaBearer :=
  if v.subParameterMask.getLsbD i then withSubBit i (copySub i v b) else b

theorem bearer_eq (v : CdmaBearer) : bearer v = implemented.flatMap (subTlv v) := rfl

/-- The TLVs of the present slots are taken one after the other. -/
theorem subRun_tlvs {l : List Nat} (hl : ∀ i ∈ l, i ∈ implemented)
    (hv : ∀ i ∈ implemented, v.subParameterMask.getLsbD i = true → SubOk c i v) (hcap : x.bEnd ≤ x.rc.cap)
    (hpos : x.rc.pos % 8 = 0) (hlen : (l.flatMap (subTlv v)).length ≤ 8 * 255)
    (h : Holds ib x.rc.pos (l.flatMap (subTlv v))) (hroom : x.rc.pos + (l.flatMap (subTlv v)).length ≤ 8 * x.bEnd) :
    subRun c ib x = subRun c ib
      { x with rc := x.rc.past (l.flatMap (subTlv v)), b := l.foldl (takeSub v) x.b } := by
  induction l generalizing x with
  | nil => rfl
  | cons i l ih =>
    obtain ⟨hi, hl⟩ := List.forall_mem_cons.1 hl
    rw [List.flatMap_cons] at hlen hroom h ⊢
    rw [List.length_append] at hlen hroom
    rw [holds_append] at h
    rw [past_append, List.foldl_cons]
    by_cases hm : v.subParameterMask.getLsbD i = true
    · have ht : subTlv v i = Wire.tlv i (sub i v) := if_pos hm
      have hs : takeSub v x.b i = withSubBit i (copySub i v x.b) := if_pos hm
      have htl := tlv_length i (sub i v)
      rw [ht] at hlen hroom h ⊢
      rw [hs, subRun_tlv hi (hv i hi hm) hcap hpos (by omega) h.1 (by omega)]
      exact ih hl (by exact hcap) (by simp only [ReadCursor.past]; omega) (by omega) h.2
        (by simp only [ReadCursor.past]; omega)
    · have ht : subTlv v i = [] := if_neg hm
      have hs : takeSub v x.b i = x.b := if_neg hm
      rw [ht] at hlen hroom h ⊢
      rw [hs, past_nil]
      exact ih hl hcap hpos (by simpa using hlen) h.2 (by simpa using hroom)

end

/-! ### The bearer that is built -/

/-- The bearer with another mask. -/
def withMask (m : BitVec 24) (b : CdmaBearer) : CdmaBearer := { b with subParameterMask := m }

theorem withMask_copySub (m : BitVec 24) (i : Nat) (v b : CdmaBearer) :
    withMask m (copySub i v b) = copySub i v (withMask m b) := by
  unfold copySub
  split <;> rfl

theorem copySub_mask (i : Nat) (v b : CdmaBearer) : (copySub i v b).subParameterMask = b.subParameterMask := by
  unfold copySub
  split <;> rfl

theorem withSubBit_getLsbD {i : Nat} (hi : i < 24) (b : CdmaBearer) (j : Nat) :
    (withSubBit i b).subParameterMask.getLsbD j = (b.subParameterMask.getLsbD j || decide (i = j)) := by
  simp only [withSubBit, BitVec.getLsbD_or, BitVec.getLsbD_ofNat, Nat.testBit_two_pow]
  by_cases h : i = j
  · subst h; simp [hi]
  · simp [h]

theorem withMask_foldl_takeSub (m : BitVec 24) (v : CdmaBearer) (l : List Nat) (b : CdmaBearer) :
    withMask m (l.foldl (takeSub v) b) =
      l.foldl (fun r i => if v.subParameterMask.getLsbD i then copySub i v r else r) (withMask m b) := by
  induction l generalizing b with
  | nil => rfl
  | cons i l ih =>
    rw [List.foldl_cons, List.foldl_cons, ih, takeSub]
    split
    · rw [← withMask_copySub]; rfl
    · rfl

theorem foldl_takeSub_getLsbD {v : CdmaBearer} {l : List Nat} (hl : ∀ i ∈ l, i < 24) (b : CdmaBearer) (j : Nat) :
    (l.foldl (takeSub v) b).subParameterMask.getLsbD j =
      (b.subParameterMask.getLsbD j || decide (j ∈ l) && v.subParameterMask.getLsbD j) := by
  induction l generalizing b with
  | nil => simp
  | cons i l ih =>
    obtain ⟨hi, hl⟩ := List.forall_mem_cons.1 hl
    rw [List.foldl_cons, ih hl, takeSub]
    by_cases hj : i = j
    · subst hj
      split
      next hm => simp [withSubBit_getLsbD hi, copySub_mask, hm]
      next hm => simp [hm]
    · split
      · simp [withSubBit_getLsbD hi, copySub_mask, hj, Ne.symm hj]
      · simp [Ne.symm hj]

/-- The slots of a bearer stored one by one into the all-zero bearer are the bearer, its absent slots at zero
(R37). -/
theorem foldl_takeSub {v : CdmaBearer} (hv : ∀ i, v.subParameterMask.getLsbD i = true → i ∈ implemented) :
    implemented.foldl (takeSub v) {} = presentBearer v := by
  have hmask : (implemented.foldl (takeSub v) {}).subParameterMask = v.subParameterMask := by
    refine BitVec.eq_of_getLsbD_eq fun j _ => ?_
    rw [foldl_takeSub_getLsbD (fun i hi => (implemented_le hi).trans_lt (by decide))]
    by_cases hj : j ∈ implemented
    · simp [hj]
    · have : v.subParameterMask.getLsbD j = false := by simpa using mt (hv j) hj
      simp [hj, this]
  calc implemented.foldl (takeSub v) {}
      = withMask v.subParameterMask (implemented.foldl (takeSub v) {}) := by rw [← hmask]; rfl
    _ = presentBearer v := withMask_foldl_takeSub v.subParameterMask v implemented {}

/-! ### The header of Bearer Data -/

theorem exec_bearerData {s : State} (hop : s.work.op ≠ .enccdma) (len : Byte) :
    exec (.pBearerdata len) s = .next (s.putDecode (decodeParamBody s.cfg s.ibuf 8 len.toNat s.decodeCtx)) :=
  congrArg Outcome.next (if_neg hop)

/-- The loop over a whole bearer, with `k` octets left over behind it: none, or one where a header is due. -/
theorem subRun_bearer {c : Config} {ib : Memory} {x : DecodeCtx} {v : CdmaBearer} {k : Nat} (hk : k ≤ 1)
    (hv : BearerOk c v) (hb : x.b = {}) (hcap : x.bEnd ≤ x.rc.cap) (hpos : x.rc.pos % 8 = 0)
    (hlen : (bearer v).length ≤ 8 * 255) (h : Holds ib x.rc.pos (bearer v))
    (hroom : x.rc.pos + (bearer v).length + 8 * k = 8 * x.bEnd) :
    subRun c ib x = { x with
      rc := x.rc.past (bearer v), b := presentBearer v, diag := if k = 1 then x.diag ||| 8 else x.diag } := by
  rw [bearer_eq] at *
  rw [subRun_tlvs (fun _ => id) hv.2 hcap hpos hlen h (by omega), hb, foldl_takeSub hv.1]
  obtain rfl | rfl : k = 0 ∨ k = 1 := by omega
  · rw [subRun_done (by simp only [ReadCursor.past]; omega)]
    rfl
  · rw [subRun_trunc (by exact hcap) (by simp only [ReadCursor.past]; omega) (by simp only [ReadCursor.past]; omega)]
    rfl

/-- Whatever octets stand there, the header of Bearer Data stores the bearer it built and marks it; every other slot of
the record stays (R251). -/
theorem decodeParamBody_bearer_m (c : Config) (ib : Memory) (len : Nat) (x : DecodeCtx) :
    (decodeParamBody c ib 8 len x).m = withParamBit 8 { x.m with bearer := (decodeParamBody c ib 8 len x).b } := by
  obtain ⟨-, -, -, hm⟩ := subLoop_keeps c ib x.rc.cap { x with b := {}, bEnd := min (x.rc.pos / 8 + len) x.rc.cap }
  exact congrArg (fun m : CdmaPdu => withParamBit 8 { m with bearer := (decodeParamBody c ib 8 len x).b }) hm

/-- The header of Bearer Data, before the TLVs of a canonical bearer and at most one octet more. -/
theorem decodeParamBody_bearer_holds {c : Config} {ib : Memory} {x : DecodeCtx} {v : CdmaBearer} {len k : Nat}
    (hk : k ≤ 1) (hlen : len ≤ 255) (hpos : x.rc.pos % 8 = 0) (hv : BearerOk c v)
    (hlength : (bearer v).length + 8 * k = 8 * len) (h : Holds ib x.rc.pos (bearer v))
    (hroom : x.rc.pos + 8 * len ≤ 8 * x.rc.cap) :
    decodeParamBody c ib 8 len x =
      { rc := { x.rc with pos := x.rc.pos + 8 * len }, diag := if k = 1 then x.diag ||| 8 else x.diag
        m := withParamBit 8 { x.m with bearer := presentBearer v }, b := presentBearer v
        bEnd := x.rc.pos / 8 + len } := by
  have hend : min (x.rc.pos / 8 + len) x.rc.cap = x.rc.pos / 8 + len := by omega
  have hseek : 8 * (x.rc.pos / 8 + len) = x.rc.pos + 8 * len := by omega
  have hrun := subRun_bearer (ib := ib) (x := { x with b := {}, bEnd := x.rc.pos / 8 + len }) hk hv rfl
    (by simp only; omega) hpos (by omega) h (by simp only; omega)
  rw [decodeParamBody_bearer, decodeBearer_eq, hend, hrun, resync, seek]
  simp only [ReadCursor.past, hend, hseek]

/-- Settles O54: the TLVs of the bearer are taken one by one, and the octet left over is no header; on any octets the
loop ends, and what it built is stored. -/
theorem bearerDecodes : Obligations.BearerDecodes := by
  refine fun s len hop => ⟨fun v k hk hpos hv hlen h hroom => ?_, _, exec_bearerData hop len, ?_⟩
  · have hx := decodeParamBody_bearer_holds (c := s.cfg) (ib := s.ibuf) (x := s.decodeCtx) (len := len.toNat) hk
      (Nat.le_of_lt_succ len.isLt) hpos hv hlen h hroom
    rw [exec_bearerData hop, hx]
    rfl
  · have hrc := decodeParamBody_rc s.cfg s.ibuf 8 len.toNat s.decodeCtx
    have hm := decodeParamBody_bearer_m s.cfg s.ibuf len.toNat s.decodeCtx
    rw [State.putDecode, hrc, hm]
    rfl

end Sys2Proof.Machine
end

section
/-! PROOFS. DECCDMA as a whole (44_cdma_decode.md R240, R241): the loop over the parameters with its fuel put away,
how the operation ends, and what each parameter and each sub-parameter can do to the record. -/

namespace Sys2Proof.Machine

open Wire
open Host (Outcome)

/-! ### The loop without its fuel -/

/-- The loop of DECCDMA, given as much fuel as the buffer has octets. -/
def paramRun (c : Config) (ib : Memory) (x : DecodeCtx) : DecodeCtx := paramLoop c ib x.rc.cap x

section
variable {c : Config} {ib : Memory} {x : DecodeCtx}

theorem paramRun_done (h : x.rc.cap ≤ x.rc.pos / 8) : paramRun c ib x = x := by
  rw [paramRun]
  cases hcap : x.rc.cap with
  | zero => rfl
  | succ n => rw [paramLoop, if_pos h]

theorem paramRun_trunc (h : x.rc.pos / 8 < x.rc.cap) (h' : x.rc.cap < x.rc.pos / 8 + 2) :
    paramRun c ib x = flagDiag diagTrunc x := by
  obtain ⟨n, hn⟩ := Nat.exists_eq_add_one_of_ne_zero (show x.rc.cap ≠ 0 by omega)
  rw [paramRun, hn, paramLoop, if_neg (Nat.not_le.2 h), if_pos h']

/-- One parameter whose header fits, and the rest. -/
theorem paramRun_step (h : x.rc.pos / 8 + 2 ≤ x.rc.cap) :
    paramRun c ib x = paramRun c ib (decodeParamBody c ib (readBits ib x.rc.pos 8) (readBits ib (x.rc.pos + 8) 8)
      { x with rc := { x.rc with pos := x.rc.pos + 16 } }) := by
  obtain ⟨n, hn⟩ := Nat.exists_eq_add_one_of_ne_zero (show x.rc.cap ≠ 0 by omega)
  rw [paramRun, hn, paramLoop, if_neg (by omega), if_neg (by omega), paramRun]
  refine paramLoop_fuel c ib _ _ _ ?_ ?_ <;> rw [decodeParamBody_rc] <;> simp only <;> omega

/-- What holds of the record and is kept by every parameter holds of the record in the end. -/
theorem paramLoop_induct {P : CdmaPdu → Prop} (hstep : ∀ id len x, P x.m → P (decodeParamBody c ib id len x).m)
    (fuel : Nat) (h : P x.m) : P (paramLoop c ib fuel x).m := by
  induction fuel generalizing x with
  | zero => exact h
  | succ n ih =>
    rw [paramLoop]
    split
    · exact h
    · split
      · exact h
      · exact ih (hstep _ _ _ h)

/-- What holds of the bearer and is kept by every sub-parameter holds of the bearer in the end. -/
theorem subLoop_induct {P : CdmaBearer → Prop} (hstep : ∀ sid len x, P x.b → P (decodeSub c ib sid len x).b)
    (fuel : Nat) (h : P x.b) : P (subLoop c ib fuel x).b := by
  induction fuel generalizing x with
  | zero => exact h
  | succ n ih =>
    rw [subLoop]
    split
    · exact h
    · split
      · exact h
      · exact ih (hstep _ _ _ h)

end

/-! ### How the operation ends -/

/-- An octet on its boundary is a field of 8 bits (R12). -/
theorem readBits_octet (m : Memory) (a : Nat) : readBits m (8 * a) 8 = (memRead m a).toNat := by
  refine Nat.eq_of_testBit_eq fun i => ?_
  rw [testBit_readBits, BitVec.testBit_toNat]
  by_cases hi : i < 8
  · rw [streamBit, show (8 * a + (8 - 1 - i)) / 8 = a by omega, show 7 - (8 * a + (8 - 1 - i)) % 8 = i by omega]
    simp [hi]
  · simp [hi, BitVec.getLsbD_of_ge _ _ (Nat.not_lt.1 hi)]

/-- The loop's context once the format octet has been read (R240). -/
def DecodeCtx.opened (n : Nat) (fmt : Byte) : DecodeCtx :=
  { rc := openR n, diag := 0, m := { format := fmt }, b := {}, bEnd := 0 }

section
variable {s : State}

theorem formatOctet_eq (ib : Memory) : BitVec.ofNat 8 (readBits ib 0 8) = memRead ib 0 := by
  rw [readBits_octet ib 0, BitVec.ofNat_toNat, BitVec.setWidth_eq]

theorem exec_deccdma_refused (h : s.cfg.ibufCap < s.ilen.toNat ∨ s.ilen.toNat = 0) :
    exec .deccdma s = .next (raise .deccdma .fault (start s)) := by
  refine execDeccdma_refused (h.imp (fun h => ?_) fun h => BitVec.eq_of_toNat_eq h)
  rw [← Bool.not_eq_false, ilenTooLong_eq_false]
  exact Nat.not_le.2 h

theorem not_refused (hpos : 1 ≤ s.ilen.toNat) (hcap : s.ilen.toNat ≤ s.cfg.ibufCap) :
    ¬ (ilenTooLong s = true ∨ s.ilen = 0) := by
  rintro (h | h)
  · rw [ilenTooLong_eq_false.2 hcap] at h
    cases h
  · rw [h] at hpos
    exact absurd hpos (by decide)

theorem exec_deccdma_format (hpos : 1 ≤ s.ilen.toNat) (hcap : s.ilen.toNat ≤ s.cfg.ibufCap)
    (hf : 2 < (memRead s.ibuf 0).toNat) :
    exec .deccdma s = .next (raise .deccdma .unsupported { start s with rc := openR s.ilen.toNat }) := by
  refine execDeccdma_error (not_refused hpos hcap) ?_
  rw [decCdma, formatOctet_eq, takeFormat_error hf]

/-- What the loop leaves, from the format octet on. -/
def State.decoded (s : State) : DecodeCtx := paramRun s.cfg s.ibuf (.opened s.ilen.toNat (memRead s.ibuf 0))

theorem exec_deccdma_ok (hpos : 1 ≤ s.ilen.toNat) (hcap : s.ilen.toNat ≤ s.cfg.ibufCap)
    (hf : (memRead s.ibuf 0).toNat ≤ 2) :
    exec .deccdma s = .next { s with
      diag := s.decoded.diag, status := 0, msgC := s.decoded.m, rc := { s.decoded.rc with isOpen := false } } := by
  refine execDeccdma_ok (not_refused hpos hcap) ?_
  rw [decCdma, formatOctet_eq, takeFormat_ok hf]
  rfl

/-- Which of the three ways DECCDMA ended, from its status. -/
theorem exec_deccdma_status {t : State} (h : exec .deccdma s = .next t) (hok : t.status = 0) :
    t.msgC = s.decoded.m ∧ t.cfg = s.cfg := by
  by_cases hr : s.cfg.ibufCap < s.ilen.toNat ∨ s.ilen.toNat = 0
  · rw [exec_deccdma_refused hr] at h
    obtain rfl := Outcome.next.inj h
    cases hok
  · have hpos : 1 ≤ s.ilen.toNat := by omega
    have hcap : s.ilen.toNat ≤ s.cfg.ibufCap := by omega
    by_cases hf : 2 < (memRead s.ibuf 0).toNat
    · rw [exec_deccdma_format hpos hcap hf] at h
      obtain rfl := Outcome.next.inj h
      cases hok
    · rw [exec_deccdma_ok hpos hcap (Nat.not_lt.1 hf)] at h
      obtain rfl := Outcome.next.inj h
      exact ⟨rfl, rfl⟩

end

/-! ### What one sub-parameter and one parameter can do to the record -/

/-- What one sub-parameter can do to the bearer: nothing, or store a canonical slot and mark it. -/
inductive SubStep (c : Config) (b : CdmaBearer) : CdmaBearer → Prop
  | skip : SubStep c b b
  | store {sid : Nat} {v : CdmaBearer} (hsid : sid ∈ implemented) (hv : SubOk c sid v) :
    SubStep c b (withSubBit sid (copySub sid v b))

theorem decodeSub_b (c : Config) (ib : Memory) (sid len : Nat) (x : DecodeCtx) :
    SubStep c x.b (decodeSub c ib sid len x).b := by
  by_cases hsid : sid ∈ implemented
  · by_cases hl : ∀ k, subExpected sid = some k → len = k
    · cases hb : subBody c ib sid x.b x.rc with
      | none => rw [decodeSub_fail hsid hl hb]; exact .skip
      | some r =>
        obtain ⟨b, d⟩ := r
        obtain ⟨_, ⟨v, hv, -, rfl⟩, -⟩ := (reads_subBody c hsid x.b ib x.rc b d).1 hb
        rw [decodeSub_store hsid hl hb]
        exact .store hsid hv
    · rw [decodeSub_mismatch hsid hl]; exact .skip
  · rw [decodeSub_unknown hsid]; exact .skip

/-- What one parameter can do to the record: nothing, store a canonical slot and mark it, or store the bearer that the
sub-parameters built. -/
inductive ParamStep (c : Config) (m : CdmaPdu) : CdmaPdu → Prop
  | skip : ParamStep c m m
  | store {id : Nat} {v : CdmaPdu} (hid : id < 8) (hv : ParamOk c id v) :
    ParamStep c m (withParamBit id (copyParam id v m))
  | bearer (ib : Memory) (fuel : Nat) {x : DecodeCtx} (hx : x.b = {}) :
    ParamStep c m (withParamBit 8 (copyParam 8 { bearer := (subLoop c ib fuel x).b } m))

theorem decodeParamBody_m (c : Config) (ib : Memory) (id len : Nat) (x : DecodeCtx) :
    ParamStep c x.m (decodeParamBody c ib id len x).m := by
  obtain hid | rfl | hid : 8 < id ∨ id = 8 ∨ id < 8 := by omega
  · rw [decodeParamBody_unknown hid]; exact .skip
  · rw [decodeParamBody_bearer_m]
    exact .bearer ib x.rc.cap rfl
  · by_cases hl : ∀ k, paramExpected id = some k → len = k
    · cases hb : paramBody c ib id x.m x.rc with
      | none => rw [decodeParamBody_fail hid hl hb]; exact .skip
      | some r =>
        obtain ⟨m, d⟩ := r
        obtain ⟨_, ⟨v, hv, -, rfl⟩, -⟩ := (reads_paramBody c hid x.m ib x.rc m d).1 hb
        rw [decodeParamBody_store hid hl hb]
        exact .store hid hv
    · rw [decodeParamBody_mismatch hid hl]; exact .skip

theorem copyParam_format (id : Nat) (v m : CdmaPdu) : (copyParam id v m).format = m.format := by
  unfold copyParam
  split <;> rfl

theorem ParamStep.format {c : Config} {m m' : CdmaPdu} (h : ParamStep c m m') : m'.format = m.format := by
  cases h with
  | skip => rfl
  | store hid hv => exact copyParam_format _ _ _
  | bearer => rfl

theorem decoded_format (s : State) : s.decoded.m.format = memRead s.ibuf 0 :=
  paramLoop_induct (P := fun m => m.format = memRead s.ibuf 0)
    (fun id len x h => (decodeParamBody_m s.cfg s.ibuf id len x).format.trans h) _ rfl

/-- DECCDMA closes the cursor it opened over ILEN octets. -/
theorem decoded_rc {s : State} (hpos : 1 ≤ s.ilen.toNat) : s.decoded.rc.cap = s.ilen.toNat :=
  (paramLoop_rc s.cfg s.ibuf _ (.opened s.ilen.toNat (memRead s.ibuf 0)) (by simp [DecodeCtx.opened]; omega)).1

/-- Settles O44: the operand check, the format octet, and then the loop, which ends on any octets. -/
theorem deccdmaEnds : Obligations.DeccdmaEnds := by
  refine fun s => ⟨fun h => ⟨_, exec_deccdma_refused h, raise_raised _ _ _⟩, fun hpos hcap =>
    ⟨fun hf => ⟨_, exec_deccdma_format hpos hcap hf, raise_raised _ _ _⟩, fun hf =>
      ⟨_, exec_deccdma_ok hpos hcap hf, ?_, decoded_format s, fun h1 => ?_, fun h2 => ?_⟩⟩⟩
  · rw [← decoded_rc hpos]
  · have hrun : s.decoded = _ := paramRun_done (by simp [DecodeCtx.opened, h1])
    simp only [hrun]
    exact ⟨rfl, rfl⟩
  · have hrun : s.decoded = _ := paramRun_trunc (by simp [DecodeCtx.opened, h2]) (by simp [DecodeCtx.opened, h2])
    simp only [hrun]
    exact ⟨(by decide : (0 : Word) ||| diagTrunc = 8), rfl⟩

end Sys2Proof.Machine
end

section
/-! PROOFS. The canonical form of every record DECCDMA builds (44_cdma_decode.md R272, 10_state.md R31 to R37): it
holds of the all-zero record, and storing a canonical slot keeps it. -/

namespace Sys2Proof.Machine

open Wire

/-! ### The algebra of slots -/

theorem copySub_comm {i j : Nat} (h : i ≠ j) (v w b : CdmaBearer) :
    copySub i v (copySub j w b) = copySub j w (copySub i v b) := by
  unfold copySub
  split <;> split <;> first | rfl | exact absurd rfl h

theorem copySub_copySub (i : Nat) (v w b : CdmaBearer) : copySub i (copySub i v w) b = copySub i v b := by
  unfold copySub
  split <;> rfl

theorem copySub_withSubBit (i j : Nat) (v b : CdmaBearer) :
    copySub i v (withSubBit j b) = withSubBit j (copySub i v b) := by
  unfold copySub
  split <;> rfl

theorem copySub_zero (i : Nat) (m : BitVec 24) :
    copySub i {} { subParameterMask := m } = { subParameterMask := m } := by
  unfold copySub
  split <;> rfl

theorem subOk_store_same (c : Config) (i : Nat) (v b : CdmaBearer) :
    SubOk c i (withSubBit i (copySub i v b)) ↔ SubOk c i v := by
  unfold SubOk
  split <;> rfl

theorem subOk_store_other (c : Config) {i j : Nat} (h : i ≠ j) (v b : CdmaBearer) :
    SubOk c i (withSubBit j (copySub j v b)) ↔ SubOk c i b := by
  unfold SubOk
  split
  case h_1 | h_2 => unfold copySub; split <;> first | rfl | exact absurd rfl h
  case h_3 => rfl

theorem copyParam_comm {i j : Nat} (h : i ≠ j) (v w m : CdmaPdu) :
    copyParam i v (copyParam j w m) = copyParam j w (copyParam i v m) := by
  unfold copyParam
  split <;> split <;> first | rfl | exact absurd rfl h

theorem copyParam_copyParam (i : Nat) (v w m : CdmaPdu) : copyParam i (copyParam i v w) m = copyParam i v m := by
  unfold copyParam
  split <;> rfl

theorem copyParam_withParamBit (i j : Nat) (v m : CdmaPdu) :
    copyParam i v (withParamBit j m) = withParamBit j (copyParam i v m) := by
  unfold copyParam
  split <;> rfl

theorem copyParam_zero (i : Nat) (f : Byte) (k : BitVec 9) :
    copyParam i {} { format := f, parameterMask := k } = { format := f, parameterMask := k } := by
  unfold copyParam
  split <;> rfl

theorem copyParam_mask (i : Nat) (v m : CdmaPdu) : (copyParam i v m).parameterMask = m.parameterMask := by
  unfold copyParam
  split <;> rfl

theorem paramOk_store_same (c : Config) (i : Nat) (v m : CdmaPdu) :
    ParamOk c i (withParamBit i (copyParam i v m)) ↔ ParamOk c i v := by
  unfold ParamOk
  split <;> rfl

theorem paramOk_store_other (c : Config) {i j : Nat} (h : i ≠ j) (v m : CdmaPdu) :
    ParamOk c i (withParamBit j (copyParam j v m)) ↔ ParamOk c i m := by
  unfold ParamOk
  split
  case h_1 | h_2 | h_3 | h_4 | h_5 => unfold copyParam; split <;> first | rfl | exact absurd rfl h
  case h_6 => rfl

theorem withParamBit_getLsbD {i : Nat} (hi : i < 9) (m : CdmaPdu) (j : Nat) :
    (withParamBit i m).parameterMask.getLsbD j = (m.parameterMask.getLsbD j || decide (i = j)) := by
  simp only [withParamBit, BitVec.getLsbD_or, BitVec.getLsbD_ofNat, Nat.testBit_two_pow]
  by_cases h : i = j
  · subst h; simp [hi]
  · simp [h]

/-- Copying only some slots is copying all, where the others are there already. -/
theorem foldl_copy_some {α : Type} {copy : Nat → α → α → α} {v : α}
    (hcomm : ∀ i j r, copy i v (copy j v r) = copy j v (copy i v r)) (p : Nat → Bool) (l : List Nat) (r : α)
    (h : ∀ i ∈ l, p i = false → copy i v r = r) :
    l.foldl (fun r i => if p i then copy i v r else r) r = l.foldl (fun r i => copy i v r) r := by
  induction l generalizing r with
  | nil => rfl
  | cons i l ih =>
    obtain ⟨hi, hl⟩ := List.forall_mem_cons.1 h
    rw [List.foldl_cons, List.foldl_cons]
    cases hp : p i with
    | true => exact ih _ fun j hj hpj => (hcomm j i r).trans (congrArg _ (hl j hj hpj))
    | false => rw [hi hp]; exact ih r hl

/-! ### Canonical bearers and records (R37, R272) -/

/-- Every present slot of the bearer is canonical, every absent one zero. -/
structure BearerInv (c : Config) (b : CdmaBearer) : Prop where
  present : BearerOk c b
  absent : ∀ i ∈ implemented, b.subParameterMask.getLsbD i = false → copySub i {} b = b

theorem BearerInv.zero (c : Config) : BearerInv c {} where
  present := ⟨fun i h => by simp at h, fun i _ h => by simp at h⟩
  absent i _ _ := copySub_zero i 0

theorem BearerInv.step {c : Config} {b b' : CdmaBearer} (h : BearerInv c b) (hs : SubStep c b b') :
    BearerInv c b' := by
  cases hs with
  | skip => exact h
  | @store sid v hsid hv =>
    obtain ⟨⟨himpl, hok⟩, habsent⟩ := h
    have hbit : ∀ i, (withSubBit sid (copySub sid v b)).subParameterMask.getLsbD i =
        (b.subParameterMask.getLsbD i || decide (sid = i)) := fun i => by
      rw [withSubBit_getLsbD ((implemented_le hsid).trans_lt (by decide)), copySub_mask]
    refine ⟨⟨fun i hi => ?_, fun i hi hbi => ?_⟩, fun i hi hbi => ?_⟩
    · rw [hbit, Bool.or_eq_true, decide_eq_true_iff] at hi
      rcases hi with hi | rfl
      · exact himpl i hi
      · exact hsid
    · rw [hbit, Bool.or_eq_true, decide_eq_true_iff] at hbi
      by_cases hne : i = sid
      · subst hne; exact (subOk_store_same _ _ _ _).2 hv
      · exact (subOk_store_other _ hne _ _).2 (hok i hi (hbi.resolve_right (Ne.symm hne)))
    · rw [hbit, Bool.or_eq_false_iff, decide_eq_false_iff_not] at hbi
      rw [copySub_withSubBit, copySub_comm (Ne.symm hbi.2), habsent i hi hbi.1]

theorem foldl_copySub (b : CdmaBearer) :
    implemented.foldl (fun r i => copySub i b r) { subParameterMask := b.subParameterMask } = b := by
  simp only [implemented, List.foldl_cons, List.foldl_nil, copySub]

/-- A canonical bearer is the bearer of its present slots. -/
theorem BearerInv.presentBearer_eq {c : Config} {b : CdmaBearer} (h : BearerInv c b) : presentBearer b = b := by
  refine Eq.trans (foldl_copy_some (copy := copySub) (v := b) (fun i j r => ?_) (b.subParameterMask.getLsbD ·)
    implemented { subParameterMask := b.subParameterMask } fun i hi hbi => ?_) (foldl_copySub b)
  · by_cases hij : i = j
    · rw [hij]
    · exact copySub_comm hij b b r
  · have hzero := copySub_copySub i {} b { subParameterMask := b.subParameterMask }
    rwa [h.absent i hi hbi, copySub_zero] at hzero

/-- Every present slot of the record is canonical, every absent one zero. -/
structure RecordInv (c : Config) (m : CdmaPdu) : Prop where
  present : ∀ i, i < 8 → m.parameterMask.getLsbD i = true → ParamOk c i m
  absent : ∀ i, i < 9 → m.parameterMask.getLsbD i = false → copyParam i {} m = m
  bearer : BearerInv c m.bearer

theorem RecordInv.zero (c : Config) (f : Byte) : RecordInv c { format := f } where
  present i _ h := by simp at h
  absent i _ _ := copyParam_zero i f 0
  bearer := .zero c

theorem copyParam_bearer {id : Nat} (hid : id < 8) (v m : CdmaPdu) : (copyParam id v m).bearer = m.bearer := by
  unfold copyParam
  split <;> first | rfl | omega

/-- A slot stored keeps the other slots as they were. -/
theorem RecordInv.store {c : Config} {m v : CdmaPdu} {id : Nat} (h : RecordInv c m) (hid : id < 9)
    (hv : id < 8 → ParamOk c id v) (hb : BearerInv c (copyParam id v m).bearer) :
    RecordInv c (withParamBit id (copyParam id v m)) := by
  have hbit : ∀ i, (withParamBit id (copyParam id v m)).parameterMask.getLsbD i =
      (m.parameterMask.getLsbD i || decide (id = i)) := fun i => by
    rw [withParamBit_getLsbD hid, copyParam_mask]
  refine ⟨fun i hi hbi => ?_, fun i hi hbi => ?_, hb⟩
  · rw [hbit, Bool.or_eq_true, decide_eq_true_iff] at hbi
    by_cases hne : i = id
    · subst hne; exact (paramOk_store_same _ _ _ _).2 (hv hi)
    · exact (paramOk_store_other _ hne _ _).2 (h.present i hi (hbi.resolve_right (Ne.symm hne)))
  · rw [hbit, Bool.or_eq_false_iff, decide_eq_false_iff_not] at hbi
    rw [copyParam_withParamBit, copyParam_comm (Ne.symm hbi.2), h.absent i hi hbi.1]

theorem RecordInv.step {c : Config} {m m' : CdmaPdu} (h : RecordInv c m) (hs : ParamStep c m m') :
    RecordInv c m' := by
  cases hs with
  | skip => exact h
  | store hid hv => exact h.store (by omega) (fun _ => hv) (by rw [copyParam_bearer hid]; exact h.bearer)
  | bearer ib fuel hx =>
    refine h.store (by decide) (fun h8 => absurd h8 (by decide)) ?_
    exact subLoop_induct (P := BearerInv c) (fun sid len x hb => hb.step (decodeSub_b c ib sid len x)) fuel
      (hx ▸ .zero c)

theorem foldl_copyParam (m : CdmaPdu) :
    (List.range 9).foldl (fun r i => copyParam i m r)
      { format := m.format, parameterMask := m.parameterMask } = m := by
  rw [show List.range 9 = [0, 1, 2, 3, 4, 5, 6, 7, 8] from rfl]
  simp only [List.foldl_cons, List.foldl_nil, copyParam]

/-- A canonical record is the record of its present slots. -/
theorem RecordInv.presentRecord_eq {c : Config} {m : CdmaPdu} (h : RecordInv c m) : presentRecord m = m := by
  rw [presentRecord, h.bearer.presentBearer_eq]
  refine Eq.trans (foldl_copy_some (copy := copyParam) (v := m) (fun i j r => ?_) (m.parameterMask.getLsbD ·)
    (List.range 9) { format := m.format, parameterMask := m.parameterMask } fun i hi hbi => ?_) (foldl_copyParam m)
  · by_cases hij : i = j
    · rw [hij]
    · exact copyParam_comm hij m m r
  · have hzero := copyParam_copyParam i {} m { format := m.format, parameterMask := m.parameterMask }
    rwa [h.absent i (List.mem_range.1 hi) hbi, copyParam_zero] at hzero

/-- Settles O45: the all-zero record is canonical, and every parameter keeps it so. -/
theorem deccdmaRecord : Obligations.DeccdmaRecord := by
  intro s t h hok
  obtain ⟨hm, hcfg⟩ := exec_deccdma_status h hok
  have hinv : RecordInv t.cfg t.msgC := by
    rw [hm, hcfg]
    exact paramLoop_induct (P := RecordInv s.cfg)
      (fun id len x hx => hx.step (decodeParamBody_m s.cfg s.ibuf id len x)) _ (.zero _ _)
  refine ⟨hinv.presentRecord_eq, ⟨hinv.present, fun _ => hinv.bearer.present⟩, fun i hi => ?_⟩
  have hnot : i ∉ implemented := (by decide : ∀ i ∈ [16, 18, 19, 22, 23], i ∉ implemented) i hi
  simpa using mt (hinv.bearer.present.1 i) hnot

end Sys2Proof.Machine
end

section
/-! PROOFS. A parameter that is skipped changes nothing of what the rest of the PDU decodes to (44_cdma_decode.md R242,
R243): DECCDMA reads the same from octets that stand further on. -/

namespace Sys2Proof.Machine

open Wire
open Host (Outcome)

/-! ### The same octets, further on -/

/-- Behind the format octet, the octets of `ib'` below `n` stand in `ib` `d` octets further on. -/
def ShiftedMem (d n : Nat) (ib ib' : Memory) : Prop := ∀ a, 1 ≤ a → a < n → memRead ib (a + d) = memRead ib' a

/-- The cursor `c` stands in its buffer where `c'` stands in one that is `d` octets shorter. -/
structure ShiftedCursor (d n : Nat) (c c' : ReadCursor) : Prop where
  pos : c.pos = c'.pos + 8 * d
  cap : c.cap = c'.cap + d
  end_eq : c'.cap = n
  behind : 8 ≤ c'.pos
  aligned : c'.pos % 8 = 0

section
variable {d n : Nat} {ib ib' : Memory} (hm : ShiftedMem d n ib ib')
include hm

theorem streamBit_shifted {p : Nat} (h : 8 ≤ p) (hp : p < 8 * n) : streamBit ib (p + 8 * d) = streamBit ib' p := by
  rw [streamBit, streamBit, show (p + 8 * d) / 8 = p / 8 + d by omega, show (p + 8 * d) % 8 = p % 8 by omega,
    hm _ (by omega) (by omega)]

theorem readBits_shifted {p k : Nat} (h : 8 ≤ p) (hp : p + k ≤ 8 * n) :
    readBits ib (p + 8 * d) k = readBits ib' p k := by
  have hbit : ∀ i, i < k → streamBit ib (p + 8 * d + i) = streamBit ib' (p + i) := fun i hi => by
    rw [← streamBit_shifted hm (p := p + i) (by omega) (by omega), Nat.add_right_comm]
  refine Nat.eq_of_testBit_eq fun i => ?_
  rw [testBit_readBits, testBit_readBits]
  by_cases hi : i < k
  · rw [hbit _ (by omega)]
  · simp [hi]

theorem stands_shifted {c c' : ReadCursor} (hc : ShiftedCursor d n c c') (l : List Bool) :
    Stands ib c l ↔ Stands ib' c' l := by
  obtain ⟨hpos, hcap, hend, hbehind, -⟩ := hc
  rcases eq_or_ne l [] with rfl | hl
  · exact ⟨fun _ => stands_nil _ _, fun _ => stands_nil _ _⟩
  · have hroom : c.pos + l.length ≤ 8 * c.cap ↔ c'.pos + l.length ≤ 8 * c'.cap := by omega
    have hholds : c'.pos + l.length ≤ 8 * c'.cap → (Holds ib c.pos l ↔ Holds ib' c'.pos l) := fun h =>
      forall₂_congr fun i hi => by
        rw [hpos, Nat.add_right_comm, streamBit_shifted hm (by omega) (by omega)]
    simp only [Stands, hroom, ne_eq, hl, not_false_eq_true, forall_const]
    exact and_congr_left hholds

/-- A reader answers the same value further on. -/
theorem Reads.shifted {α : Type} {f : Memory → Rd α} {G : α → List Bool → Prop} (hf : Reads f G) {c c' : ReadCursor}
    (hc : ShiftedCursor d n c c') : (f ib c).map Prod.fst = (f ib' c').map Prod.fst := by
  refine Option.ext fun v => ?_
  simp only [Option.map_eq_some_iff, Prod.exists, exists_and_right, exists_eq_right, hf ib c, hf ib' c',
    stands_shifted hm hc]
  exact ⟨fun ⟨_, l, hG, hs, _⟩ => ⟨_, l, hG, hs, rfl⟩, fun ⟨_, l, hG, hs, _⟩ => ⟨_, l, hG, hs, rfl⟩⟩

/-- A reader that answers nothing answers nothing further on, and one that answers a value answers that value. -/
theorem Reads.shifted_cases {α : Type} {f : Memory → Rd α} {G : α → List Bool → Prop} (hf : Reads f G)
    {c c' : ReadCursor} (hc : ShiftedCursor d n c c') :
    (f ib c = none ∧ f ib' c' = none) ∨ ∃ v e e', f ib c = some (v, e) ∧ f ib' c' = some (v, e') := by
  have h := hf.shifted hm hc
  cases hb : f ib c with
  | none => exact .inl ⟨rfl, by simpa [hb, eq_comm] using h⟩
  | some r =>
    obtain ⟨v, e⟩ := r
    obtain ⟨⟨w, e'⟩, he, rfl⟩ := Option.map_eq_some_iff.1 (h.symm.trans (congrArg (Option.map Prod.fst) hb))
    exact .inr ⟨w, e, e', rfl, he⟩

end

theorem ShiftedCursor.seek {d n t t' : Nat} {c c' : ReadCursor} (h : ShiftedCursor d n c c') (ht : t = t' + d)
    (ht' : 1 ≤ t') (hn : 1 ≤ n) : ShiftedCursor d n (seek t c) (seek t' c') := by
  obtain ⟨-, hcap, hend, -, -⟩ := h
  exact ⟨by simp only [seek_pos]; omega, hcap, hend, by simp only [seek_pos]; omega, Nat.mul_mod_right 8 _⟩

theorem ShiftedCursor.header {d n : Nat} {c c' : ReadCursor} (h : ShiftedCursor d n c c') :
    ShiftedCursor d n { c with pos := c.pos + 16 } { c' with pos := c'.pos + 16 } := by
  obtain ⟨hpos, hcap, hend, hbehind, haligned⟩ := h
  exact ⟨by simp only; omega, hcap, hend, by simp only; omega, by simp only; omega⟩

/-! ### The loops, further on -/

/-- The contexts differ by the shift, and DIAG of the first by the bit of the parameter skipped before. -/
structure ShiftedCtx (d n : Nat) (x x' : DecodeCtx) : Prop where
  rc : ShiftedCursor d n x.rc x'.rc
  m : x.m = x'.m
  diag : x.diag = x'.diag ||| diagUnknownId

/-- The bearer records too are the same, with the same end. -/
structure ShiftedBearer (d n : Nat) (x x' : DecodeCtx) : Prop extends ShiftedCtx d n x x' where
  b : x.b = x'.b
  bEnd : x.bEnd = x'.bEnd + d
  bEnd_pos : 1 ≤ x'.bEnd
  bEnd_le : x'.bEnd ≤ n

/-- One bit more in both. -/
theorem diag_shifted {u u' v v' e : Word} (h : u = u' ||| diagUnknownId) (hv : v = u ||| e) (hv' : v' = u' ||| e) :
    v = v' ||| diagUnknownId := by
  rw [hv, hv', h, BitVec.or_assoc, BitVec.or_assoc, BitVec.or_comm e]

section
variable {d n : Nat} {ib ib' : Memory} (hm : ShiftedMem d n ib ib') (c : Config)
include hm

/-- The header of a TLV is the same further on. -/
theorem header_shifted {k k' : ReadCursor} (h : ShiftedCursor d n k k') (hroom : k'.pos / 8 + 2 ≤ n) :
    readBits ib k.pos 8 = readBits ib' k'.pos 8 ∧ readBits ib (k.pos + 8) 8 = readBits ib' (k'.pos + 8) 8 := by
  obtain ⟨hpos, -, -, hbehind, haligned⟩ := h
  rw [hpos, Nat.add_right_comm]
  exact ⟨readBits_shifted hm hbehind (by omega), readBits_shifted hm (by omega) (by omega)⟩

theorem decodeSub_shifted (sid len : Nat) {x x' : DecodeCtx} (h : ShiftedBearer d n x x') :
    ShiftedBearer d n (decodeSub c ib sid len x) (decodeSub c ib' sid len x') := by
  obtain ⟨⟨hrc, hm', hdiag⟩, hb, hend, hpos, hle⟩ := h
  have hcursor : ShiftedCursor d n (decodeSub c ib sid len x).rc (decodeSub c ib' sid len x').rc := by
    rw [decodeSub_rc, decodeSub_rc]
    refine hrc.seek ?_ ?_ (hpos.trans hle) <;> obtain ⟨hp, -, -, hbehind, -⟩ := hrc <;> omega
  have hout : (decodeSub c ib sid len x).b = (decodeSub c ib' sid len x').b ∧
      ∃ e, (decodeSub c ib sid len x).diag = x.diag ||| e ∧ (decodeSub c ib' sid len x').diag = x'.diag ||| e := by
    by_cases hsid : sid ∈ implemented
    · by_cases hl : ∀ k, subExpected sid = some k → len = k
      · rcases (reads_subBody c hsid x.b).shifted_cases hm hrc with ⟨h1, h2⟩ | ⟨v, e, e', h1, h2⟩
        · rw [decodeSub_fail hsid hl h1, decodeSub_fail hsid hl (hb ▸ h2)]
          exact ⟨hb, _, rfl, rfl⟩
        · rw [decodeSub_store hsid hl h1, decodeSub_store hsid hl (hb ▸ h2)]
          exact ⟨rfl, 0, BitVec.or_zero.symm, BitVec.or_zero.symm⟩
      · rw [decodeSub_mismatch hsid hl, decodeSub_mismatch hsid hl]
        exact ⟨hb, _, rfl, rfl⟩
    · rw [decodeSub_unknown hsid, decodeSub_unknown hsid]
      exact ⟨hb, _, rfl, rfl⟩
  obtain ⟨hb', e, he, he'⟩ := hout
  refine ⟨⟨hcursor, ?_, diag_shifted hdiag he he'⟩, hb', ?_, ?_, ?_⟩
  · rw [decodeSub_m, decodeSub_m, hm']
  · rw [decodeSub_bEnd, decodeSub_bEnd, hend]
  · rw [decodeSub_bEnd]; exact hpos
  · rw [decodeSub_bEnd]; exact hle

theorem subLoop_shifted (fuel : Nat) {x x' : DecodeCtx} (h : ShiftedBearer d n x x') :
    ShiftedBearer d n (subLoop c ib fuel x) (subLoop c ib' fuel x') := by
  induction fuel generalizing x x' with
  | zero => exact h
  | succ fuel ih =>
    obtain ⟨hpos, -, -, -, -⟩ := h.rc
    have hend := h.bEnd
    have hle := h.bEnd_le
    rw [subLoop, subLoop]
    by_cases h1 : x'.bEnd ≤ x'.rc.pos / 8
    · rw [if_pos h1, if_pos (by omega)]
      exact h
    · rw [if_neg h1, if_neg (by omega)]
      by_cases h2 : x'.bEnd < x'.rc.pos / 8 + 2
      · rw [if_pos h2, if_pos (by omega)]
        exact { h with diag := diag_shifted h.diag rfl rfl }
      · rw [if_neg h2, if_neg (by omega)]
        obtain ⟨hid, hlen⟩ := header_shifted hm h.rc (by omega)
        dsimp only
        rw [hid, hlen]
        exact ih (decodeSub_shifted hm c _ _ { h with rc := h.rc.header })

theorem decodeBearer_shifted (len : Nat) {x x' : DecodeCtx} (h : ShiftedCtx d n x x') (hn : 1 ≤ n) :
    (decodeBearer c ib len x).m = (decodeBearer c ib' len x').m ∧
      (decodeBearer c ib len x).diag = (decodeBearer c ib' len x').diag ||| diagUnknownId := by
  obtain ⟨hpos, hcap, hend, hbehind, -⟩ := h.rc
  have hstart : ShiftedBearer d n { x with b := {}, bEnd := min (x.rc.pos / 8 + len) x.rc.cap }
      { x' with b := {}, bEnd := min (x'.rc.pos / 8 + len) x'.rc.cap } :=
    { h with b := rfl, bEnd := by simp only; omega, bEnd_pos := by simp only; omega, bEnd_le := by simp only; omega }
  have hrun := subLoop_shifted hm c x.rc.cap hstart
  rw [subLoop_fuel c ib' x.rc.cap x'.rc.cap _ (by simp only; omega) (by simp only; omega)
    (Nat.min_le_right _ _)] at hrun
  refine ⟨?_, hrun.diag⟩
  rw [decodeBearer, decodeBearer, hrun.m, hrun.b]

theorem decodeParamBody_shifted (id len : Nat) {x x' : DecodeCtx} (h : ShiftedCtx d n x x') (hn : 1 ≤ n) :
    ShiftedCtx d n (decodeParamBody c ib id len x) (decodeParamBody c ib' id len x') := by
  have hcursor : ShiftedCursor d n (decodeParamBody c ib id len x).rc (decodeParamBody c ib' id len x').rc := by
    rw [decodeParamBody_rc, decodeParamBody_rc]
    refine h.rc.seek ?_ ?_ hn <;> obtain ⟨hp, -, -, hbehind, -⟩ := h.rc <;> omega
  suffices hout : (decodeParamBody c ib id len x).m = (decodeParamBody c ib' id len x').m ∧
      (decodeParamBody c ib id len x).diag = (decodeParamBody c ib' id len x').diag ||| diagUnknownId from
    ⟨hcursor, hout.1, hout.2⟩
  obtain hid | rfl | hid : 8 < id ∨ id = 8 ∨ id < 8 := by omega
  · rw [decodeParamBody_unknown hid, decodeParamBody_unknown hid]
    exact ⟨h.m, diag_shifted h.diag rfl rfl⟩
  · exact decodeBearer_shifted hm c len h hn
  · by_cases hl : ∀ k, paramExpected id = some k → len = k
    · rcases (reads_paramBody c hid x.m).shifted_cases hm h.rc with ⟨h1, h2⟩ | ⟨v, e, e', h1, h2⟩
      · rw [decodeParamBody_fail hid hl h1, decodeParamBody_fail hid hl (h.m ▸ h2)]
        exact ⟨h.m, diag_shifted h.diag rfl rfl⟩
      · rw [decodeParamBody_store hid hl h1, decodeParamBody_store hid hl (h.m ▸ h2)]
        exact ⟨rfl, h.diag⟩
    · rw [decodeParamBody_mismatch hid hl, decodeParamBody_mismatch hid hl]
      exact ⟨h.m, diag_shifted h.diag rfl rfl⟩

theorem paramLoop_shifted (fuel : Nat) {x x' : DecodeCtx} (h : ShiftedCtx d n x x') (hn : 1 ≤ n) :
    ShiftedCtx d n (paramLoop c ib fuel x) (paramLoop c ib' fuel x') := by
  induction fuel generalizing x x' with
  | zero => exact h
  | succ fuel ih =>
    obtain ⟨hpos, hcap, hend, -, -⟩ := h.rc
    rw [paramLoop, paramLoop]
    by_cases h1 : x'.rc.cap ≤ x'.rc.pos / 8
    · rw [if_pos h1, if_pos (by omega)]
      exact h
    · rw [if_neg h1, if_neg (by omega)]
      by_cases h2 : x'.rc.cap < x'.rc.pos / 8 + 2
      · rw [if_pos h2, if_pos (by omega)]
        exact { h with diag := diag_shifted h.diag rfl rfl }
      · rw [if_neg h2, if_neg (by omega)]
        obtain ⟨hid, hlen⟩ := header_shifted hm h.rc (by omega)
        dsimp only
        rw [hid, hlen]
        exact ih (decodeParamBody_shifted hm c _ _ { h with rc := h.rc.header } hn)

theorem paramRun_shifted {x x' : DecodeCtx} (h : ShiftedCtx d n x x') (hn : 1 ≤ n) :
    ShiftedCtx d n (paramRun c ib x) (paramRun c ib' x') := by
  obtain ⟨-, hcap, -, -, -⟩ := h.rc
  have hrun := paramLoop_shifted hm c x.rc.cap h hn
  rwa [paramLoop_fuel c ib' x.rc.cap x'.rc.cap _ (by omega) (by omega)] at hrun

end

/-! ### The parameter that is skipped -/

theorem input_getD {s : State} {k : Nat} (h : k < s.ilen.toNat) : (input s).getD k 0 = memRead s.ibuf k := by
  rw [input, memSlice_getD _ _ _ _ h, Nat.zero_add]

/-- After a parameter of unknown identifier right behind the format octet the loop stands behind it, with its DIAG bit
set and nothing stored (R242, R243). -/
theorem paramRun_unknown_first {c : Config} {ib : Memory} {n : Nat} (hn : 3 ≤ n) (hid : 8 < (memRead ib 1).toNat)
    (fmt : Byte) : paramRun c ib (.opened n fmt) =
      paramRun c ib (resync (3 + (memRead ib 2).toNat) (flagDiag diagUnknownId (.opened n fmt))) := by
  rw [paramRun_step (by simp only [DecodeCtx.opened, openR]; omega)]
  have h1 : readBits ib (DecodeCtx.opened n fmt).rc.pos 8 = (memRead ib 1).toNat := readBits_octet ib 1
  have h2 : readBits ib ((DecodeCtx.opened n fmt).rc.pos + 8) 8 = (memRead ib 2).toNat := readBits_octet ib 2
  rw [h1, h2, decodeParamBody_unknown hid]
  simp only [resync, seek, flagDiag, DecodeCtx.opened, openR, Nat.reduceAdd, Nat.reduceDiv]

/-- Settles O46: behind the unknown parameter the loop stands where it stands at once without it. -/
theorem unknownParameterSkipped : Obligations.UnknownParameterSkipped := by
  intro s s' t t' fmt id len skipped rest hfmt hid hskipped hcfg hcap hcap' hin hin' hexec hexec'
  have hlen : s.ilen.toNat = 3 + len.toNat + rest.length := by
    rw [← input_length, hin]; simp [hskipped]; omega
  have hlen' : s'.ilen.toNat = 1 + rest.length := by
    rw [← input_length, hin']; simp [Nat.add_comm]
  have hread : ∀ k, k < s.ilen.toNat → memRead s.ibuf k = (fmt :: id :: len :: (skipped ++ rest)).getD k 0 :=
    fun k hk => by rw [← input_getD hk, hin]
  have hread' : ∀ k, k < s'.ilen.toNat → memRead s'.ibuf k = (fmt :: rest).getD k 0 :=
    fun k hk => by rw [← input_getD hk, hin']
  have h0 : memRead s.ibuf 0 = fmt := hread 0 (by omega)
  have h1 : memRead s.ibuf 1 = id := hread 1 (by omega)
  have h2 : memRead s.ibuf 2 = len := hread 2 (by omega)
  have h0' : memRead s'.ibuf 0 = fmt := hread' 0 (by omega)
  have hm : ShiftedMem (2 + len.toNat) s'.ilen.toNat s.ibuf s'.ibuf := by
    intro a ha han
    obtain ⟨a, rfl⟩ := Nat.exists_eq_add_of_le' ha
    rw [hread _ (by omega), hread' _ han, show a + 1 + (2 + len.toNat) = skipped.length + a + 1 + 1 + 1 by omega]
    simp [List.getD_eq_getElem?_getD, List.getElem?_append_right]
  have hstart : ShiftedCtx (2 + len.toNat) s'.ilen.toNat
      (resync (3 + len.toNat) (flagDiag diagUnknownId (.opened s.ilen.toNat fmt))) (.opened s'.ilen.toNat fmt) := by
    refine ⟨⟨?_, ?_, rfl, le_rfl, Nat.mod_self 8⟩, rfl, rfl⟩ <;> simp [resync, flagDiag, DecodeCtx.opened] <;> omega
  have hrun : s.decoded = paramRun s.cfg s.ibuf _ := paramRun_unknown_first (by omega) (by rw [h1]; exact hid) _
  have hshift : ShiftedCtx (2 + len.toNat) s'.ilen.toNat s.decoded s'.decoded := by
    rw [hrun, h0, h2, State.decoded, h0', ← hcfg]
    exact paramRun_shifted hm s.cfg hstart (by omega)
  rw [exec_deccdma_ok (by omega) hcap (by rw [h0]; exact hfmt)] at hexec
  rw [exec_deccdma_ok (by omega) hcap' (by rw [h0']; exact hfmt)] at hexec'
  obtain rfl := Outcome.next.inj hexec
  obtain rfl := Outcome.next.inj hexec'
  exact ⟨rfl, rfl, hshift.m, hshift.diag⟩

end Sys2Proof.Machine
end

section
/-! PROOFS. What a writer of ENCCDMA is (45_cdma_encode.md R300, R301): it puts a fixed run of bits at the cursor where
there is room for all of them, and sets the overflow flag where there is not. A writer is put together from smaller
ones, and so is its run of bits. -/

namespace Sys2Proof.Machine

open Wire

/-! ### Bits written at a cursor -/

theorem holds_congr {m m' : Memory} {p : Nat} {l : List Bool} (h : Holds m p l)
    (hq : ∀ q, p ≤ q → q < p + l.length → streamBit m' q = streamBit m q) : Holds m' p l := fun i hi => by
  rw [hq _ (Nat.le_add_right p i) (by omega), h i hi]

/-- `w'` is `w` after the bits `l` have been written at its cursor: they stand there, no other bit has changed, and of
the cursor only the position has moved. -/
structure WStream.Wrote (w : WStream) (l : List Bool) (w' : WStream) : Prop where
  wc : w'.wc = { w.wc with pos := w.wc.pos + l.length }
  holds : Holds w'.buf w.wc.pos l
  kept : KeptOutside w.wc.pos l.length w.buf w'.buf

namespace WStream.Wrote

variable {w v u : WStream} {l l' : List Bool}

protected theorem nil (w : WStream) : w.Wrote [] w where
  wc := rfl
  holds _ hi := absurd hi (Nat.not_lt_zero _)
  kept _ _ := rfl

theorem pos (h : w.Wrote l v) : v.wc.pos = w.wc.pos + l.length := by rw [h.wc]

theorem cap (h : w.Wrote l v) : v.wc.cap = w.wc.cap := by rw [h.wc]

theorem ovf (h : w.Wrote l v) : v.wc.ovf = w.wc.ovf := by rw [h.wc]

protected theorem append (h : w.Wrote l v) (h' : v.Wrote l' u) : w.Wrote (l ++ l') u where
  wc := by rw [h'.wc, h.wc, List.length_append, Nat.add_assoc]
  holds := holds_append.2 ⟨holds_congr h.holds fun q _ hq => h'.kept q (.inl (by rw [h.pos]; exact hq)),
    h.pos ▸ h'.holds⟩
  kept q hq := by
    have hpos := h.pos
    rw [List.length_append] at hq
    rw [h'.kept q (by omega), h.kept q (by omega)]

/-- Zero bits up to the octet boundary (R145). -/
theorem flush (w : WStream) : w.Wrote (List.replicate (8 * ceil8 w.wc.pos - w.wc.pos) false) (flushBits w) := by
  have hceil := ceil8_mul w.wc.pos
  refine ⟨?_, fun i hi => ?_, fun q hq => ?_⟩
  · rw [List.length_replicate, Nat.add_sub_cancel' hceil.1]; rfl
  · rw [List.length_replicate] at hi
    rw [streamBit_flushBits, if_pos (by omega)]
    simp [hi]
  · rw [List.length_replicate] at hq
    rw [streamBit_flushBits, if_neg (by omega)]

end WStream.Wrote

/-- An octet on its boundary holds the 8 bits of what was patched in (R147). -/
theorem holds_patch (b n : Nat) (w : WStream) : Holds (patch b n w).buf (8 * b) (bits 8 n) := by
  rw [holds_bits, readBits_octet, memRead_patch, if_pos rfl, low8, BitVec.toNat_ofNat]

/-- Patching an octet changes no bit outside it. -/
theorem streamBit_patch_other (b n : Nat) (w : WStream) {q : Nat} (h : q < 8 * b ∨ 8 * b + 8 ≤ q) :
    streamBit (patch b n w).buf q = streamBit w.buf q := by
  rw [streamBit, streamBit, memRead_patch, if_neg (by omega)]

/-- The octet of a field written before takes another value: the field does, and all else stays. -/
theorem WStream.Wrote.patch {w v : WStream} {l l' : List Bool} {n b : Nat} (k : Nat)
    (h : w.Wrote (l ++ bits 8 n ++ l') v) (hb : w.wc.pos + l.length = 8 * b) :
    w.Wrote (l ++ bits 8 k ++ l') (patch b k v) := by
  have hlen : (l ++ bits 8 k ++ l').length = (l ++ bits 8 n ++ l').length := by simp
  have hlength : (l ++ bits 8 n ++ l').length = l.length + 8 + l'.length := by simp [Nat.add_assoc]
  have hholds := h.holds
  simp only [holds_append, List.length_append, bits_length, ← Nat.add_assoc, hb] at hholds
  obtain ⟨⟨hl, -⟩, hl'⟩ := hholds
  refine ⟨by rw [patch_wc, hlen]; exact h.wc, ?_, fun q hq => ?_⟩
  · simp only [holds_append, List.length_append, bits_length, ← Nat.add_assoc, hb]
    exact ⟨⟨holds_congr hl fun q _ hq => streamBit_patch_other _ _ _ (by omega), holds_patch _ _ _⟩,
      holds_congr hl' fun q hq _ => streamBit_patch_other _ _ _ (by omega)⟩
  · rw [hlen] at hq
    rw [streamBit_patch_other _ _ _ (by omega), h.kept q hq]

/-! ### Writers -/

/-- `f` is the writer of the bits `l`: it writes them where they fit, and sets the overflow flag where they do not; it
only moves the stream on (R143, R148). -/
structure Writes (f : WStream → WStream) (l : List Bool) : Prop where
  later : ∀ w : WStream, w.Later (f w)
  fits : ∀ w : WStream, w.wc.pos + l.length ≤ 8 * w.wc.cap → w.Wrote l (f w)
  full : ∀ w : WStream, w.wc.pos ≤ 8 * w.wc.cap → 8 * w.wc.cap < w.wc.pos + l.length → (f w).wc.ovf = true

namespace Writes

variable {f g : WStream → WStream} {l l' : List Bool}

protected theorem nil : Writes (fun w => w) [] where
  later := .refl
  fits w _ := .nil w
  full _ h h' := absurd h (Nat.not_le.2 h')

protected theorem wr (v n : Nat) : Writes (wr v n) (bits n v) where
  later := wr_later v n
  fits w h := by
    rw [bits_length] at h
    rw [wr_fits h]
    exact ⟨by rw [bits_length], holds_putBits _ _ _ _, by rw [bits_length]; exact keptOutside_putBits _ _ _ _⟩
  full w _ h := by
    rw [bits_length] at h
    rw [wr_full h]

protected theorem field {n : Nat} (v : BitVec n) : Writes (wrF v) (field v) := .wr _ _

/-- One writer after the other: the second has no room, or the first had none. -/
protected theorem append (hf : Writes f l) (hg : Writes g l') : Writes (fun w => g (f w)) (l ++ l') where
  later w := (hf.later w).trans (hg.later _)
  fits w h := by
    rw [List.length_append] at h
    have hw := hf.fits w (by omega)
    exact hw.append (hg.fits _ (by rw [hw.pos, hw.cap]; omega))
  full w h h' := by
    rw [List.length_append] at h'
    by_cases hroom : w.wc.pos + l.length ≤ 8 * w.wc.cap
    · have hw := hf.fits w hroom
      exact hg.full _ (by rw [hw.pos, hw.cap]; exact hroom) (by rw [hw.pos, hw.cap]; omega)
    · exact (hg.later _).ovf (hf.full w h (Nat.not_le.1 hroom))

/-- A writer that runs only where `p`. -/
protected theorem optional {p : Prop} [Decidable p] (hf : Writes f l) :
    Writes (fun w => if p then f w else w) (if p then l else []) := by
  by_cases h : p
  · simpa only [if_pos h] using hf
  · simpa only [if_neg h] using Writes.nil

protected theorem units {k : Nat} (n : Nat) (us : List (BitVec k)) (count : Nat) :
    Writes (wrUnits n us count) (Wire.units n us count) := by
  induction count with
  | zero => exact .nil
  | succ count ih =>
    have hw : wrUnits n us (count + 1) = fun w => wr (us.getD count 0).toNat n (wrUnits n us count w) := by
      funext w
      simp only [wrUnits, List.range_succ, List.foldl_append, List.foldl_cons, List.foldl_nil]
    have hl : Wire.units n us (count + 1) = Wire.units n us count ++ bits n (us.getD count 0).toNat := by
      simp only [Wire.units, List.range_succ, List.flatMap_append, List.flatMap_cons, List.flatMap_nil,
        List.append_nil]
    rw [hw, hl]
    exact ih.append (.wr _ _)

end Writes

end Sys2Proof.Machine
end

section
/-! PROOFS. The bits of each CDMA body (45_cdma_encode.md R302 to R329): its writer writes the body that
Sys2Proof/Wire.lean gives for the slot. -/

namespace Sys2Proof.Machine

open Wire

/-! ### Padding -/

/-- Zero bits behind a body that end in its last octet are padding. -/
theorem pad_append_zeros {l : List Bool} {n : Nat} (h : l.length + n ≤ 8 * ceil8 l.length) :
    pad (l ++ List.replicate n false) = pad l := by
  have hceil : ceil8 (l.length + n) = ceil8 l.length := by
    have := ceil8_mul l.length
    unfold ceil8 at *; omega
  simp only [pad, List.length_append, List.length_replicate, hceil, List.append_assoc,
    List.replicate_append_replicate]
  congr 2
  omega

theorem pad_subaddress (a : CdmaSubaddress) : pad (Wire.subaddress a ++ bits 4 0) = pad (Wire.subaddress a) := by
  have hlen : (Wire.subaddress a).length = 12 + 8 * a.fieldsNumber.toNat := by
    simp [Wire.subaddress, subaddressHead, units_length]; omega
  exact pad_append_zeros (n := 4) (by rw [hlen, ceil8]; omega)

namespace Writes

/-! ### The bodies of the top-level parameters (R302 to R309) -/

protected theorem address (a : CdmaAddress) : Writes (wrAddress a) (Wire.address a) :=
  ((((((Writes.field a.digitMode).append (.field a.numberMode)).append
    (.optional (p := a.digitMode = 1) (.field a.numberType))).append
    (.optional (p := a.digitMode = 1 ∧ a.numberMode = 0) (.field a.numberPlan))).append (.field a.fieldsNumber)).append
    (.units (unitWidth a.digitMode) a.chari a.fieldsNumber.toNat) :)

/-- The four reserved bits behind the units are zeros, as the padding of the body is (R305). -/
protected theorem subaddress (a : CdmaSubaddress) : Writes (wrSubaddress a) (Wire.subaddress a ++ bits 4 0) :=
  (((((Writes.field a.type).append (.field a.odd)).append (.field a.fieldsNumber)).append
    (.units 8 a.chari a.fieldsNumber.toNat)).append (.wr 0 4) :)

protected theorem cause (a : CdmaCause) : Writes (wrCause a) (Wire.cause a) :=
  (((Writes.field a.replySeq).append (.field a.errorClass)).append
    (.optional (p := a.errorClass ≠ 0) (.field a.causeCode)) :)

/-- The writer of a body 0 to 7 writes the body, or the body and some of its padding. -/
theorem param (id : Nat) (m : CdmaPdu) : ∃ l, Writes (wrParam id m) l ∧ pad l = pad (Wire.param id m) := by
  match id with
  | 0 => exact ⟨_, .field m.teleserviceId, rfl⟩
  | 1 => exact ⟨_, .field m.serviceCategory, rfl⟩
  | 2 => exact ⟨_, .address m.origAddr, rfl⟩
  | 3 => exact ⟨_, .subaddress m.origSubaddr, pad_subaddress _⟩
  | 4 => exact ⟨_, .address m.destAddr, rfl⟩
  | 5 => exact ⟨_, .subaddress m.destSubaddr, pad_subaddress _⟩
  | 6 => exact ⟨_, .field m.bearerReplySeq, rfl⟩
  | 7 => exact ⟨_, .cause m.cause, rfl⟩
  | _ + 8 => exact ⟨_, .nil, rfl⟩

/-! ### The bodies of the sub-parameters (R311 to R329) -/

protected theorem date (d : CdmaDate) : Writes (wrDate d) (Wire.date d) :=
  ((((((Writes.field d.year).append (.field d.month)).append (.field d.day)).append (.field d.hours)).append
    (.field d.minutes)).append (.field d.seconds) :)

protected theorem callBack (a : CdmaCallBack) : Writes (wrCallBack a) (Wire.callBack a) :=
  ((((Writes.field a.digitMode).append
    (.optional (p := a.digitMode = 1) ((Writes.field a.numberType).append (.field a.numberPlan)))).append
    (.field a.fieldsNumber)).append (.units (unitWidth a.digitMode) a.chari a.fieldsNumber.toNat) :)

theorem units_zero_width {k : Nat} (us : List (BitVec k)) (count : Nat) : Wire.units 0 us count = [] :=
  List.flatMap_eq_nil_iff.2 fun _ _ => rfl

/-- A tag with no unit width has no units, neither on the wire nor in what is written. -/
protected theorem userData (u : CdmaUserData) : Writes (wrUserData u) (field u.encoding ++ userDataRest u) := by
  have hunits : Wire.units ((udWidth u.encoding).getD 0) u.chari
      (if (udWidth u.encoding).isSome then u.fieldsNumber.toNat else 0) =
      Wire.units (udUnit u.encoding) u.chari u.fieldsNumber.toNat := by
    rw [udWidth_eq]
    by_cases h : udUnit u.encoding = 0
    · simp only [h, if_true, Option.getD_none, units_zero_width]
    · simp only [h, if_false, Option.getD_some, Option.isSome_some, if_true]
  rw [userDataRest, ← hunits, ← List.append_assoc]
  exact (((Writes.field u.encoding).append (.field u.fieldsNumber)).append (.units _ _ _) :)

theorem sub (sid : Nat) (b : CdmaBearer) : Writes (wrSub sid b) (Wire.sub sid b) := by
  unfold wrSub
  split
  case h_1 =>
    exact (((Writes.field b.messageIdentifier.messageType).append (.field b.messageIdentifier.messageId)).append
      (.field b.messageIdentifier.headerInd) :)
  case h_2 => exact .userData _
  case h_4 | h_5 | h_7 => exact .date _
  case h_11 =>
    exact ((((Writes.field b.replyOption.userAck).append (.field b.replyOption.deliveryAck)).append
      (.field b.replyOption.readAck)).append (.field b.replyOption.report) :)
  case h_15 => exact .callBack _
  case h_18 =>
    exact ((Writes.field b.messageStatus.errorClass).append (.field b.messageStatus.statusCode) :)
  case h_20 =>
    rw [Wire.sub]
    · exact .nil
    all_goals assumption
  all_goals exact .field _

end Writes

end Sys2Proof.Machine
end

section
/-! PROOFS. The TLVs of ENCCDMA and their runs (45_cdma_encode.md R300, R301, R310): placeholder, body, padding and
patch leave the TLV that Sys2Proof/Wire.lean gives, exactly where it fits and its length octet can count the body. -/

namespace Sys2Proof.Machine

open Wire

/-! ### Emitters -/

/-- The cursor stands where a TLV may begin: on an octet boundary within its capacity, not overflowed. -/
structure WStream.Ready (w : WStream) : Prop where
  aligned : w.wc.pos % 8 = 0
  within : w.wc.pos ≤ 8 * w.wc.cap
  ovf : w.wc.ovf = false

/-- `f` is the emitter of the bits `l`, which it can count where `ok`: from a ready cursor it writes them where they
can be counted and fit, and only there ends with no raise and no overflow. -/
structure Emits (f : WStream → Wr) (ok : Prop) (l : List Bool) : Prop where
  later : ∀ w : WStream, w.Later (f w).stream
  fits : ∀ w : WStream, w.Ready → ok → w.wc.pos + l.length ≤ 8 * w.wc.cap → ∃ w', f w = .ok w' ∧ w.Wrote l w'
  only : ∀ w w' : WStream, w.Ready → f w = .ok w' → w'.wc.ovf = false → ok ∧ w.wc.pos + l.length ≤ 8 * w.wc.cap

theorem WStream.Wrote.ready {w v : WStream} {l : List Bool} (h : w.Wrote l v) (hw : w.Ready) (hl : l.length % 8 = 0)
    (hroom : w.wc.pos + l.length ≤ 8 * w.wc.cap) : v.Ready := by
  obtain ⟨haligned, -, hovf⟩ := hw
  have hpos := h.pos
  exact ⟨by omega, by rw [hpos, h.cap]; exact hroom, by rw [h.ovf, hovf]⟩

/-- A writer that ends without overflow had room. -/
theorem Writes.room {f : WStream → WStream} {l : List Bool} (hf : Writes f l) {w : WStream}
    (hw : w.wc.pos ≤ 8 * w.wc.cap) (h : (f w).wc.ovf = false) : w.wc.pos + l.length ≤ 8 * w.wc.cap := by
  by_contra hfull
  rw [hf.full w hw (Nat.not_le.1 hfull)] at h
  cases h

namespace Emits

variable {f g : WStream → Wr} {ok ok' : Prop} {l l' : List Bool}

protected theorem congr (h : Emits f ok l) (hok : ok ↔ ok') (hl : l = l') : Emits f ok' l' := by
  subst hl
  rwa [propext hok] at h

/-- What ends without overflow began without it. -/
theorem ovf (h : Emits f ok l) {w w' : WStream} (hf : f w = .ok w') (hovf : w'.wc.ovf = false) :
    w.wc.ovf = false := by
  have hlater := h.later w
  rw [hf] at hlater
  by_contra hw
  rw [Wr.stream_ok] at hlater
  rw [hlater.ovf (by simpa using hw)] at hovf
  cases hovf

protected theorem nil : Emits (fun w => .ok w) True [] where
  later := .refl
  fits w _ _ _ := ⟨w, rfl, .nil w⟩
  only _ _ hw _ _ := ⟨trivial, hw.within⟩

theorem of_writes {f : WStream → WStream} (h : Writes f l) : Emits (fun w => .ok (f w)) True l where
  later := h.later
  fits w _ _ hroom := ⟨f w, rfl, h.fits w hroom⟩
  only w w' hw hf hovf := by
    obtain rfl := Except.ok.inj hf
    exact ⟨trivial, h.room hw.within hovf⟩

/-- An emitter that runs only where the mask bit is set (R300, R310). -/
protected theorem masked {b : Bool} (h : Emits f ok l) :
    Emits (fun w => if b then f w else .ok w) (b = true → ok) (if b then l else []) := by
  cases b with
  | true => exact h.congr (by simp) rfl
  | false => exact Emits.nil.congr (by simp) rfl

/-- A writer of whole octets, and an emitter after it. -/
protected theorem after {f : WStream → WStream} (hf : Writes f l) (hl : l.length % 8 = 0) (hg : Emits g ok l') :
    Emits (fun w => g (f w)) ok (l ++ l') where
  later w := (hf.later w).trans (hg.later _)
  fits w hw hok hroom := by
    rw [List.length_append] at hroom
    have hfw := hf.fits w (by omega)
    obtain ⟨w', hgw, hw'⟩ := hg.fits _ (hfw.ready hw hl (by omega)) hok (by rw [hfw.pos, hfw.cap]; omega)
    exact ⟨w', hgw, hfw.append hw'⟩
  only w w' hw hgw hovf := by
    have hroom := hf.room hw.within (hg.ovf hgw hovf)
    have hfw := hf.fits w hroom
    obtain ⟨hok, hroom'⟩ := hg.only _ w' (hfw.ready hw hl hroom) hgw hovf
    rw [hfw.pos, hfw.cap] at hroom'
    exact ⟨hok, by rw [List.length_append]; omega⟩

end Emits

/-! ### A run of emitters (R300, R310) -/

theorem eachId_cons_ok {f : Nat → WStream → Wr} {i : Nat} {ids : List Nat} {w v : WStream} (h : f i w = .ok v) :
    eachId f (i :: ids) w = eachId f ids v := by
  simp only [eachId, h]

theorem eachId_cons_error {f : Nat → WStream → Wr} {i : Nat} {ids : List Nat} {w v : WStream}
    (h : f i w = .error v) : eachId f (i :: ids) w = .error v := by
  simp only [eachId, h]

theorem length_flatMap_mod {f : Nat → List Bool} (h : ∀ i, (f i).length % 8 = 0) (ids : List Nat) :
    (ids.flatMap f).length % 8 = 0 := by
  induction ids with
  | nil => rfl
  | cons i ids ih =>
    rw [List.flatMap_cons, List.length_append]
    have := h i
    omega

/-- Emitters of whole octets, one after the other. -/
theorem Emits.each {f : Nat → WStream → Wr} {ok : Nat → Prop} {l : Nat → List Bool}
    (h : ∀ i, Emits (f i) (ok i) (l i)) (hl : ∀ i, (l i).length % 8 = 0) (ids : List Nat) :
    Emits (eachId f ids) (∀ i ∈ ids, ok i) (ids.flatMap l) := by
  induction ids with
  | nil => exact Emits.nil.congr (by simp) rfl
  | cons i ids ih =>
    refine Emits.congr (ok := ok i ∧ ∀ j ∈ ids, ok j) (l := l i ++ ids.flatMap l) ?_ List.forall_mem_cons.symm
      List.flatMap_cons.symm
    refine ⟨fun w => eachId_later _ _ _ fun i => (h i).later, fun w hw ⟨hi, hids⟩ hroom => ?_,
      fun w w' hw hrun hovf => ?_⟩
    · rw [List.length_append] at hroom
      obtain ⟨v, hv, hwrote⟩ := (h i).fits w hw hi (by omega)
      obtain ⟨u, hu, hwrote'⟩ := ih.fits v (hwrote.ready hw (hl i) (by omega)) hids
        (by rw [hwrote.pos, hwrote.cap]; omega)
      exact ⟨u, (eachId_cons_ok hv).trans hu, hwrote.append hwrote'⟩
    · cases hv : f i w with
      | error v =>
        rw [eachId_cons_error hv] at hrun
        cases hrun
      | ok v =>
        rw [eachId_cons_ok hv] at hrun
        obtain ⟨hi, hroom⟩ := (h i).only w v hw hv (ih.ovf hrun hovf)
        obtain ⟨v', hv', hwrote⟩ := (h i).fits w hw hi hroom
        obtain rfl := Except.ok.inj (hv.symm.trans hv')
        obtain ⟨hids, hroom'⟩ := ih.only v w' (hwrote.ready hw (hl i) hroom) hrun hovf
        rw [hwrote.pos, hwrote.cap] at hroom'
        exact ⟨⟨hi, hids⟩, by rw [List.length_append]; omega⟩

/-! ### One TLV (R301) -/

theorem tlv_ok {id : Nat} {body : WStream → Wr} {w v : WStream} (h : body (tlvHead id w) = .ok v) :
    tlv id body w = tlvEnd ((wr id 8 w).wc.pos / 8) v := by
  simp only [tlv, h]

theorem tlv_error {id : Nat} {body : WStream → Wr} {w v : WStream} (h : body (tlvHead id w) = .error v) :
    tlv id body w = .error v := by
  simp only [tlv, h]

/-- The end of a TLV of `n` body octets, behind a length octet `lp`. -/
theorem tlvEnd_eq {lp n : Nat} {v : WStream} (hv : v.wc.ovf = false) (hn : ceil8 v.wc.pos = lp + 1 + n) :
    tlvEnd lp v = if 255 < n then .error (flushBits v) else .ok (patch lp n (flushBits v)) := by
  simp only [tlvEnd, flushBits_ovf, hv, flushBits_pos, Nat.mul_div_cancel_left _ (show 0 < 8 by decide), hn,
    Nat.add_sub_cancel_left]
  rfl

theorem tlvEnd_ovf {lp : Nat} {v w' : WStream} (h : tlvEnd lp v = .ok w') (hovf : w'.wc.ovf = false) :
    v.wc.ovf = false := by
  by_contra hv
  rw [Bool.not_eq_false] at hv
  simp only [tlvEnd, flushBits_ovf, hv, if_true] at h
  obtain rfl := Except.ok.inj h
  rw [flushBits_ovf, hv] at hovf
  cases hovf

protected theorem Writes.tlvHead (id : Nat) : Writes (tlvHead id) (bits 8 id ++ bits 8 0) :=
  ((Writes.wr id 8).append (.wr 0 8) :)

section
variable {id : Nat} {l : List Bool} {w : WStream}

/-- The header of a TLV with room: the cursor behind it is ready, and the length octet is the one before it. -/
theorem tlvHead_wrote (hw : w.Ready) (hroom : w.wc.pos + 16 ≤ 8 * w.wc.cap) :
    w.Wrote (bits 8 id ++ bits 8 0) (tlvHead id w) ∧ (tlvHead id w).Ready ∧
      (tlvHead id w).wc.pos = w.wc.pos + 16 ∧ (wr id 8 w).wc.pos / 8 = w.wc.pos / 8 + 1 := by
  have hwrote := (Writes.tlvHead id).fits w (by simpa using hroom)
  refine ⟨hwrote, hwrote.ready hw (by simp) (by simpa using hroom), by simp [hwrote.pos], ?_⟩
  rw [wr_fits (by omega)]
  simp only
  omega

/-- Header, body and padding, and the number of body octets patched in, are the TLV. -/
theorem wrote_tlv {v : WStream} (hw : w.Ready) (hhead : w.Wrote (bits 8 id ++ bits 8 0) (tlvHead id w))
    (hbody : (tlvHead id w).Wrote l v) :
    w.Wrote (Wire.tlv id l) (patch (w.wc.pos / 8 + 1) (ceil8 l.length) (flushBits v)) := by
  have haligned := hw.aligned
  have hpos : v.wc.pos = w.wc.pos + 16 + l.length := by simp [hbody.pos, hhead.pos]
  have hzeros : 8 * ceil8 v.wc.pos - v.wc.pos = 8 * ceil8 l.length - l.length := by
    rw [hpos]; unfold ceil8; omega
  have hflush := WStream.Wrote.flush v
  rw [hzeros] at hflush
  have hall := (hhead.append hbody).append hflush
  rw [List.append_assoc _ l] at hall
  exact hall.patch _ (by rw [bits_length]; omega)

end

/-- The TLV of a body: it can be counted where the body can and its length octet can count the body's octets. -/
protected theorem Emits.tlv {body : WStream → Wr} {ok : Prop} {l : List Bool} (id : Nat) (hb : Emits body ok l) :
    Emits (tlv id body) (ok ∧ ceil8 l.length ≤ 255) (Wire.tlv id l) := by
  refine ⟨fun w => tlv_later id body w hb.later, fun w hw ⟨hok, hlen⟩ hroom => ?_, fun w w' hw hrun hovf => ?_⟩
  · have hceil := ceil8_mul l.length
    rw [tlv_length] at hroom
    obtain ⟨hhead, hready, hpos, hlp⟩ := tlvHead_wrote (id := id) hw (by omega)
    obtain ⟨v, hv, hbody⟩ := hb.fits _ hready hok (by rw [hpos, hhead.cap]; omega)
    have hn : ceil8 v.wc.pos = w.wc.pos / 8 + 1 + 1 + ceil8 l.length := by
      have := hw.aligned
      rw [hbody.pos, hpos]; unfold ceil8; omega
    refine ⟨_, ?_, wrote_tlv hw hhead hbody⟩
    rw [tlv_ok hv, hlp, tlvEnd_eq (by rw [hbody.ovf, hready.ovf]) hn, if_neg (by omega)]
  · cases hv : body (tlvHead id w) with
    | error v =>
      rw [tlv_error hv] at hrun
      cases hrun
    | ok v =>
      rw [tlv_ok hv] at hrun
      have hvovf := tlvEnd_ovf hrun hovf
      have hroom := (Writes.tlvHead id).room hw.within (hb.ovf hv hvovf)
      rw [List.length_append, bits_length, bits_length] at hroom
      obtain ⟨hhead, hready, hpos, hlp⟩ := tlvHead_wrote (id := id) hw hroom
      obtain ⟨hok, hroom'⟩ := hb.only _ v hready hv hvovf
      obtain ⟨v', hv', hbody⟩ := hb.fits _ hready hok hroom'
      obtain rfl := Except.ok.inj (hv.symm.trans hv')
      rw [hpos, hhead.cap] at hroom'
      have haligned := hw.aligned
      have hn : ceil8 v.wc.pos = w.wc.pos / 8 + 1 + 1 + ceil8 l.length := by
        rw [hbody.pos, hpos]; unfold ceil8; omega
      rw [hlp, tlvEnd_eq hvovf hn] at hrun
      refine ⟨⟨hok, ?_⟩, by rw [tlv_length]; unfold ceil8; omega⟩
      by_contra hlen
      rw [if_pos (Nat.not_le.1 hlen)] at hrun
      cases hrun

/-- A TLV depends on the padded body alone. -/
theorem tlv_eq_of_pad {l l' : List Bool} (h : pad l = pad l') (id : Nat) :
    Wire.tlv id l = Wire.tlv id l' ∧ ceil8 l.length = ceil8 l'.length := by
  have hlen := congrArg List.length h
  rw [pad_length, pad_length] at hlen
  have hceil : ceil8 l.length = ceil8 l'.length := by omega
  exact ⟨by rw [Wire.tlv, Wire.tlv, h, hceil], hceil⟩

/-! ### The parameters and the sub-parameters, and the whole record (R300, R310) -/

theorem subTlv_length_mod (b : CdmaBearer) (i : Nat) : (subTlv b i).length % 8 = 0 := by
  unfold subTlv
  split
  · rw [tlv_length]; omega
  · rfl

theorem Emits.encodeSub (b : CdmaBearer) (i : Nat) :
    Emits (encodeSub b i) (b.subParameterMask.getLsbD i = true → ceil8 (sub i b).length ≤ 255) (subTlv b i) :=
  (((Emits.of_writes (.sub i b)).tlv i).congr (iff_of_eq (true_and _)) rfl).masked

/-- The TLV of parameter `i` of `m`, where its mask bit is set (R300). -/
def paramTlv (m : CdmaPdu) (i : Nat) : List Bool :=
  if m.parameterMask.getLsbD i then Wire.tlv i (body i m) else []

theorem pdu_eq (m : CdmaPdu) : pdu m = field m.format ++ (List.range 9).flatMap (paramTlv m) := rfl

theorem paramTlv_length_mod (m : CdmaPdu) (i : Nat) : (paramTlv m i).length % 8 = 0 := by
  unfold paramTlv
  split
  · rw [tlv_length]; omega
  · rfl

theorem bearer_length_mod (b : CdmaBearer) : (bearer b).length % 8 = 0 :=
  length_flatMap_mod (subTlv_length_mod b) implemented

theorem pdu_length_mod (m : CdmaPdu) : (pdu m).length % 8 = 0 := by
  have := length_flatMap_mod (paramTlv_length_mod m) (List.range 9)
  rw [pdu_eq, List.length_append, field_length]
  omega

/-- No body of a sub-parameter is longer than the bearer that holds it. -/
theorem ceil8_sub_le_bearer {b : CdmaBearer} {i : Nat} (hi : i ∈ implemented)
    (hm : b.subParameterMask.getLsbD i = true) : ceil8 (sub i b).length ≤ ceil8 (bearer b).length := by
  have hle : (subTlv b i).length ≤ (bearer b).length := by
    rw [bearer_eq, List.length_flatMap]
    exact List.le_sum_of_mem (List.mem_map_of_mem hi)
  have ht : subTlv b i = Wire.tlv i (sub i b) := if_pos hm
  rw [ht, tlv_length] at hle
  have := ceil8_mul (bearer b).length
  omega

theorem Emits.wrBearer (b : CdmaBearer) : Emits (wrBearer b)
    (∀ i ∈ implemented, b.subParameterMask.getLsbD i = true → ceil8 (sub i b).length ≤ 255) (bearer b) :=
  .each (.encodeSub b) (subTlv_length_mod b) implemented

theorem Emits.encodeParam (m : CdmaPdu) (i : Nat) :
    Emits (encodeParam m i) (m.parameterMask.getLsbD i = true → ceil8 (body i m).length ≤ 255) (paramTlv m i) := by
  by_cases hi : i = 8
  · subst hi
    refine (((Emits.wrBearer m.bearer).tlv 8).congr ⟨And.right, fun h => ⟨fun i hi hm => ?_, h⟩⟩ rfl).masked
    exact (ceil8_sub_le_bearer hi hm).trans h
  · obtain ⟨l, hl, hpad⟩ := Writes.param i m
    obtain ⟨htlv, hceil⟩ := tlv_eq_of_pad hpad i
    have hbody : body i m = param i m := if_neg hi
    have hrun : Machine.encodeParam m i =
        fun w => if hasParam i m then tlv i (fun w => .ok (wrParam i m w)) w else .ok w := by
      funext w
      rw [Machine.encodeParam, if_neg hi]
    rw [hrun]
    exact (((Emits.of_writes hl).tlv i).congr (by rw [hbody, hceil, true_and]) (by rw [hbody, htlv])).masked

theorem Emits.emitRecord (m : CdmaPdu) : Emits (emitRecord m)
    (∀ i, i < 9 → m.parameterMask.getLsbD i = true → ceil8 (body i m).length ≤ 255) (pdu m) :=
  (Emits.after (.field m.format) (by rw [field_length])
    (.each (.encodeParam m) (paramTlv_length_mod m) (List.range 9))).congr (by simp only [List.mem_range]) rfl

end Sys2Proof.Machine
end

section
/-! PROOFS. The CDMA elements as steps of ENCCDMA (45_cdma_encode.md R300 to R330, log 11): a header writes its TLV at
WC, an encoding tag the user data, and a refused element ends the operation. -/

namespace Sys2Proof.Machine

open Wire
open Host (Outcome)

/-! ### A step on the write stream -/

theorem wstream_ready {s : State} (hovf : s.wc.ovf = false) (haligned : s.wc.pos % 8 = 0)
    (hroom : s.wc.pos ≤ 8 * s.wc.cap) : s.wstream.Ready := ⟨haligned, hroom, hovf⟩

/-- The state with the written stream put back: OBUF and the position of WC have changed. -/
theorem putW_wrote {s : State} {l : List Bool} {w : WStream} (h : s.wstream.Wrote l w) :
    s.putW w = { s with obuf := w.buf, wc := { s.wc with pos := s.wc.pos + l.length } } := by
  rw [State.putW, h.wc]
  rfl

/-- A step that emits bits it can count and has room for writes them at WC, and no other bit. -/
theorem encodeStep_emits {f : WStream → Wr} {ok : Prop} {l : List Bool} (hf : Emits f ok l) {s : State}
    (hready : s.wstream.Ready) (hok : ok) (hroom : s.wc.pos + l.length ≤ 8 * s.wc.cap) :
    ∃ m, encodeStep f s = { s with obuf := m, wc := { s.wc with pos := s.wc.pos + l.length } } ∧
      Holds m s.wc.pos l ∧ KeptOutside s.wc.pos l.length s.obuf m := by
  obtain ⟨w, hw, hwrote⟩ := hf.fits s.wstream hready hok hroom
  refine ⟨w.buf, ?_, hwrote.holds, hwrote.kept⟩
  simp only [encodeStep, hw]
  exact putW_wrote hwrote

/-- A step that writes nothing. -/
theorem encodeStep_ok_self {f : WStream → Wr} {s : State} (h : f s.wstream = .ok s.wstream) :
    encodeStep f s = s := by
  simp only [encodeStep, h]
  rfl

/-! ### The headers of the parameters -/

section
variable {s : State} {len : Byte} {x : Nat × Instr}

theorem exec_param_encode (hop : s.work.op = .enccdma) (hx : x ∈ paramInstrs len ++ [(8, .pBearerdata len)]) :
    exec x.2 s = .next (encodeStep (encodeParam s.msgC x.1) s) := by
  simp only [paramInstrs, List.cons_append, List.nil_append, List.mem_cons, List.not_mem_nil, or_false] at hx
  rcases hx with rfl | rfl | rfl | rfl | rfl | rfl | rfl | rfl | rfl <;> exact congrArg Outcome.next (if_pos hop)

/-- Settles O55: with its mask bit set the header emits its TLV, with the bit clear nothing. -/
theorem parameterEncodes : Obligations.ParameterEncodes := by
  refine fun s len hop => ⟨fun x hx => ⟨fun hm => ?_, fun hm hovf haligned hlen hroom => ?_⟩,
    fun id => congrArg Outcome.next (if_pos hop)⟩
  · exact (exec_param_encode hop hx).trans (congrArg _ (encodeStep_ok_self (if_neg (ne_true_of_eq_false hm))))
  · have hl : paramTlv s.msgC x.1 = Wire.tlv x.1 (body x.1 s.msgC) := if_pos hm
    obtain ⟨m, hstep, hm⟩ := encodeStep_emits ((Emits.encodeParam s.msgC x.1).congr Iff.rfl hl)
      (wstream_ready hovf haligned (by omega)) (fun _ => hlen) hroom
    exact ⟨m, (exec_param_encode hop hx).trans (congrArg _ hstep), hm⟩

/-! ### The headers of the sub-parameters -/

theorem exec_sub_encode (hop : s.work.op = .enccdma) (hx : x ∈ subInstrs len) :
    exec x.2 s = .next (encodeStep (encodeSub s.msgC.bearer x.1) s) := by
  simp only [subInstrs, List.mem_cons, List.not_mem_nil, or_false] at hx
  rcases hx with rfl | rfl | rfl | rfl | rfl | rfl | rfl | rfl | rfl | rfl | rfl | rfl | rfl | rfl | rfl | rfl | rfl |
    rfl | rfl <;> exact congrArg Outcome.next (if_pos hop)

theorem exec_bodiless_encode (hop : s.work.op = .enccdma) (hx : x ∈ bodilessInstrs len) :
    exec x.2 s =
      .next (if hasParam 8 s.msgC && hasSub x.1 s.msgC.bearer then stopOperation .fault s else s) := by
  simp only [bodilessInstrs, List.mem_cons, List.not_mem_nil, or_false] at hx
  rcases hx with rfl | rfl | rfl | rfl | rfl <;> exact congrArg Outcome.next (if_pos hop)

/-- A refused element ends ENCCDMA with the kind of the refusal. -/
theorem exec_stop_encode {i : Instr} {k : Kind} (hop : s.work.op = .enccdma)
    (hexec : exec i s = .next (stopOperation k s)) :
    ∃ t, exec i s = .next t ∧ Raised .enccdma k s t ∧ t.work = {} := by
  have hstop := stopOperation_raised k s
  rw [hop] at hstop
  exact ⟨_, hexec, hstop⟩

/-- Settles O58: as for the parameters; a kind with no body is refused where both its bits are set. -/
theorem subparameterEncodes : Obligations.SubparameterEncodes := by
  refine fun s len hop => ⟨fun x hx => ⟨fun hm => ?_, fun hm hovf haligned hlen hroom => ?_⟩,
    fun x hx => ⟨fun hb hm => ?_, fun hm => ?_⟩, fun id => congrArg Outcome.next (if_pos hop)⟩
  · exact (exec_sub_encode hop hx).trans (congrArg _ (encodeStep_ok_self (if_neg (ne_true_of_eq_false hm))))
  · have hl : subTlv s.msgC.bearer x.1 = Wire.tlv x.1 (sub x.1 s.msgC.bearer) := if_pos hm
    obtain ⟨m, hstep, hm⟩ := encodeStep_emits ((Emits.encodeSub s.msgC.bearer x.1).congr Iff.rfl hl)
      (wstream_ready hovf haligned (by omega)) (fun _ => hlen) hroom
    exact ⟨m, (exec_sub_encode hop hx).trans (congrArg _ hstep), hm⟩
  · exact exec_stop_encode hop ((exec_bodiless_encode hop hx).trans
      (congrArg _ (if_pos (Bool.and_eq_true_iff.2 ⟨hb, hm⟩))))
  · exact (exec_bodiless_encode hop hx).trans
      (congrArg _ (if_neg (ne_true_of_eq_false (Bool.and_eq_false_iff.2 hm))))

/-! ### The encoding tags -/

theorem encodingElement_write {tag : BitVec 5} (hop : s.work.op = .enccdma) (htag : udUnit tag ≠ 0) :
    encodingElement tag s = s.putW (wrUserData { s.msgC.bearer.userData with encoding := tag } s.wstream) := by
  simp only [encodingElement, if_pos hop, udWidth_eq, if_neg htag]
  rfl

theorem encodingElement_refused {tag : BitVec 5} (hop : s.work.op = .enccdma) (htag : udUnit tag = 0) :
    encodingElement tag s = stopOperation .unsupported s := by
  simp only [encodingElement, if_pos hop, udWidth_eq, if_pos htag]
  rfl

/-- Settles O60: a tag with a unit width writes the user data with the tag in its place, one with none is refused. -/
theorem encodingEncodes : Obligations.EncodingEncodes := by
  intro s hop u
  refine ⟨fun x hx hroom => ?_, fun i hi => ?_, fun tag ht =>
    exec_stop_encode hop (congrArg Outcome.next (encodingElement_refused hop (udUnit_of_gt ht)))⟩
  · obtain ⟨hexec, hw⟩ := exec_handledTag (s := s) hx
    have hne : udUnit x.2.1 ≠ 0 := by
      rw [hw]
      exact (by decide : ∀ y ∈ handledTags, y.2.2 ≠ 0) x hx
    have hlen : (field x.2.1 ++ userDataRest { u with encoding := x.2.1 }).length =
        13 + x.2.2 * u.fieldsNumber.toNat := by
      simp only [userDataRest, List.length_append, field_length, units_length, hw]
      omega
    have hwrote := (Writes.userData { u with encoding := x.2.1 }).fits s.wstream (by rw [hlen]; exact hroom)
    have hholds := hwrote.holds
    have hkept := hwrote.kept
    rw [hlen] at hkept
    simp only [userDataRest, hw, ← List.append_assoc] at hholds
    refine ⟨_, ?_, hholds, hkept⟩
    rw [hexec, encodingElement_write hop hne, putW_wrote hwrote, hlen]
  · simp only [List.mem_cons, List.not_mem_nil, or_false] at hi
    rcases hi with rfl | rfl | rfl | rfl <;>
      exact exec_stop_encode hop (congrArg Outcome.next (encodingElement_refused hop rfl))

end

end Sys2Proof.Machine
end

section
/-! PROOFS. ENCCDMA as a whole (45_cdma_encode.md R300, R301, R331): its checks as the conditions of
Sys2Proof/Wire.lean, what each way of ending leaves, and that the emission ends in order exactly where there is room. -/

namespace Sys2Proof.Machine

open Wire
open Host (Outcome)

/-! ### The checks made before anything is written (R300) -/

section
variable {c : Config} {m : CdmaPdu}

theorem hasUnimplemented_iff : hasUnimplemented m = true ↔ HasBodiless m := by
  rw [hasUnimplemented, Bool.and_eq_true, List.any_eq_true]
  rfl

theorem userDataFits_iff (u : CdmaUserData) :
    userDataFits c u = true ↔ ceil8 (u.fieldsNumber.toNat * udUnit u.encoding) ≤ c.cdmaUdCap := by
  rw [userDataFits, udWidth_eq]
  by_cases h : udUnit u.encoding = 0
  · simp [h, ceil8]
  · simp [h]

theorem hasUnhandledEncoding_iff : hasUnhandledEncoding m = true ↔ HasNoWidth m := by
  have hnone : (udWidth m.bearer.userData.encoding).isNone = true ↔ udUnit m.bearer.userData.encoding = 0 := by
    rw [udWidth_eq]
    split <;> simp [*]
  rw [hasUnhandledEncoding, Bool.and_eq_true, Bool.and_eq_true, hnone, and_assoc]
  rfl

/-- A test made of present slots alone. -/
theorem absent_or_iff {b t : Bool} : (!b || t) = true ↔ (b = true → t = true) := by
  cases b <;> simp

theorem recordFits_iff : recordFits c m = true ↔ Fits c m := by
  simp only [recordFits, Bool.and_eq_true, absent_or_iff, userDataFits_iff, addressFits, subaddressFits, callBackFits,
    decide_eq_true_iff, and_assoc, and_imp]
  rfl

theorem checkRecord_format (h : 2 < m.format.toNat) : checkRecord c m = .error .fault := if_pos h

theorem checkRecord_bodiless (hf : m.format.toNat ≤ 2) (h : HasBodiless m) : checkRecord c m = .error .fault := by
  rw [checkRecord, if_neg (Nat.not_lt.2 hf), if_pos (hasUnimplemented_iff.2 h)]

section
variable (hf : m.format.toNat ≤ 2) (hb : ¬ HasBodiless m)
include hf hb

theorem checkRecord_capacity (h : ¬ Fits c m) : checkRecord c m = .error .fault := by
  rw [checkRecord, if_neg (Nat.not_lt.2 hf), if_neg (mt hasUnimplemented_iff.1 hb),
    if_pos (Bool.not_eq_true _ ▸ mt recordFits_iff.1 h)]

theorem checkRecord_noWidth (hfit : Fits c m) (h : HasNoWidth m) : checkRecord c m = .error .unsupported := by
  rw [checkRecord, if_neg (Nat.not_lt.2 hf), if_neg (mt hasUnimplemented_iff.1 hb),
    if_neg (ne_false_of_eq_true (recordFits_iff.2 hfit)), if_pos (hasUnhandledEncoding_iff.2 h)]

theorem checkRecord_ok (hfit : Fits c m) (hw : ¬ HasNoWidth m) : checkRecord c m = .ok () := by
  rw [checkRecord, if_neg (Nat.not_lt.2 hf), if_neg (mt hasUnimplemented_iff.1 hb),
    if_neg (ne_false_of_eq_true (recordFits_iff.2 hfit)), if_neg (mt hasUnhandledEncoding_iff.1 hw)]

end
end

/-! ### The emission -/

/-- The stream ENCCDMA opens. -/
def State.opened (s : State) : WStream := openW s.cfg.cdmaPduCap s.obuf

theorem opened_ready (s : State) : s.opened.Ready := ⟨rfl, Nat.zero_le _, rfl⟩

theorem emitRecord_roomy {s : State} (h : Roomy s.cfg s.msgC) :
    ∃ w, emitRecord s.msgC s.opened = .ok w ∧ s.opened.Wrote (pdu s.msgC) w :=
  (Emits.emitRecord s.msgC).fits s.opened (opened_ready s) h.1 ((Nat.zero_add _).trans_le h.2)

/-- Where the emission ends without overflow, there was room. -/
theorem roomy_of_emitRecord {s : State} {w : WStream} (h : emitRecord s.msgC s.opened = .ok w)
    (hovf : w.wc.ovf = false) : Roomy s.cfg s.msgC := by
  obtain ⟨hcount, hroom⟩ := (Emits.emitRecord s.msgC).only s.opened w (opened_ready s) h hovf
  exact ⟨hcount, (Nat.zero_add _).symm.trans_le hroom⟩

/-! ### How the operation ends -/

section
variable {s : State}

theorem exec_enccdma_refused {k : Kind} (h : checkRecord s.cfg s.msgC = .error k) :
    exec .enccdma s = .next (raise .enccdma k (start s)) := by
  refine congrArg Outcome.next ?_
  simp only [start_cfg, start_msgC, h]

theorem exec_enccdma_ok (h : checkRecord s.cfg s.msgC = .ok ()) {w : WStream}
    (hw : emitRecord s.msgC s.opened = .ok w) (hovf : w.wc.ovf = false) :
    exec .enccdma s = .next { s with
      diag := 0, status := 0, obuf := w.buf, olen := toWord (w.wc.pos / 8), wc := { w.wc with isOpen := false } } := by
  refine congrArg Outcome.next ?_
  rw [State.opened] at hw
  simp only [start_cfg, start_msgC, start_obuf, h, hw, hovf]
  rfl

theorem exec_enccdma_overflow (h : checkRecord s.cfg s.msgC = .ok ())
    (hw : ∀ w, emitRecord s.msgC s.opened = .ok w → w.wc.ovf = true) :
    exec .enccdma s =
      .next (raise .enccdma .overflow ((start s).putW (emitRecord s.msgC s.opened).stream)) := by
  refine congrArg Outcome.next ?_
  rw [State.opened] at *
  simp only [start_cfg, start_msgC, start_obuf, h]
  cases he : emitRecord s.msgC (openW s.cfg.cdmaPduCap s.obuf) with
  | error w => rfl
  | ok w =>
    simp only [hw w he, if_true]
    rfl

/-- Octets behind the capacity are not written (R61). -/
theorem memRead_emitRecord (m : CdmaPdu) {a : Nat} (ha : s.cfg.cdmaPduCap ≤ a) :
    memRead (emitRecord m s.opened).stream.buf a = memRead s.obuf a := by
  rw [(emitRecord_later m s.opened).above (Nat.zero_le _) a ha, State.opened, openW, memRead_clearPrefix,
    if_neg (Nat.not_lt.2 ha)]

theorem streamBit_opened {q : Nat} (hq : q < 8 * s.cfg.cdmaPduCap) : streamBit s.opened.buf q = false := by
  rw [streamBit, State.opened, openW, memRead_clearPrefix, if_pos (by omega)]
  simp

/-- Settles O48: the emission has room, writes the PDU from octet 0, and leaves the zeros behind it. -/
theorem enccdmaWrites : Obligations.EnccdmaWrites := by
  intro s hf hb hfit hwidth hroomy
  obtain ⟨w, hw, hwrote⟩ := emitRecord_roomy hroomy
  have hpos : w.wc.pos = (pdu s.msgC).length := hwrote.pos.trans (Nat.zero_add _)
  refine ⟨w.buf, ?_, hwrote.holds, fun q hq hcap => ?_, fun a ha => ?_⟩
  · rw [exec_enccdma_ok (checkRecord_ok hf hb hfit hwidth) hw hwrote.ovf, hpos, hwrote.wc]
    simp only [State.opened, openW, Nat.zero_add]
    rfl
  · rw [hwrote.kept q (.inr ((Nat.zero_add _).trans_le hq)), streamBit_opened hcap]
  · have h := memRead_emitRecord s.msgC ha
    rwa [hw] at h

/-- Settles O49: each check by its branch; without room the emission raises or overflows. -/
theorem enccdmaRefuses : Obligations.EnccdmaRefuses := by
  intro s Ends
  have hends : ∀ k, checkRecord s.cfg s.msgC = .error k → Ends k := fun k h =>
    ⟨_, exec_enccdma_refused h, raise_raised _ _ _⟩
  refine ⟨fun h => hends _ (checkRecord_format h), fun hf => ⟨fun h => hends _ (checkRecord_bodiless hf h), fun hb =>
    ⟨fun h => hends _ (checkRecord_capacity hf hb h), fun hfit => ⟨fun h => hends _ (checkRecord_noWidth hf hb hfit h),
      fun hwidth hroomy => ⟨_, exec_enccdma_overflow (checkRecord_ok hf hb hfit hwidth) fun w hw => ?_, rfl, rfl,
        fun a ha => ?_⟩⟩⟩⟩⟩
  · by_contra hovf
    exact hroomy (roomy_of_emitRecord hw (Bool.not_eq_true _ ▸ hovf))
  · rw [raise, finish_obuf, memRead_abandon _ _ _ ha, putW_obuf]
    exact memRead_emitRecord s.msgC ha

end

end Sys2Proof.Machine
end

section
/-! PROOFS. The law of the CDMA codec (45_cdma_encode.md R332): DECCDMA takes the TLVs of a canonical record one by one,
and what it builds is the record of the present slots. -/

namespace Sys2Proof.Machine

open Wire
open Host (Outcome)

/-! ### One parameter of a canonical record -/

/-- The record whose bearer has its absent slots at zero (R37). -/
def presentSlots (v : CdmaPdu) : CdmaPdu := { v with bearer := presentBearer v.bearer }

theorem copyParam_presentSlots {i : Nat} (hi : i < 8) (v m : CdmaPdu) :
    copyParam i (presentSlots v) m = copyParam i v m := by
  unfold copyParam
  split <;> first | rfl | omega

/-- A body of fixed length has its expected length (R103). -/
theorem ceil8_param_length (i : Nat) (m : CdmaPdu) :
    ∀ k, paramExpected i = some k → ceil8 (param i m).length = k := by
  intro k hk
  unfold paramExpected at hk
  split at hk
  next h => obtain rfl := Option.some.inj hk; rcases h with rfl | rfl <;> simp [param, ceil8]
  next =>
    split at hk
    next h => obtain rfl := Option.some.inj hk; subst h; simp [param, ceil8]
    next => cases hk

/-- What the loop of DECCDMA has become by taking the bits `l`: the cursor stands behind them, the record is `m`, and
DIAG is as before. -/
structure DecodeCtx.Took (x : DecodeCtx) (l : List Bool) (m : CdmaPdu) (y : DecodeCtx) : Prop where
  rc : y.rc = x.rc.past l
  m : y.m = m
  diag : y.diag = x.diag

section
variable {c : Config} {ib : Memory} {x : DecodeCtx} {v : CdmaPdu}

/-- A body that stands behind its header is stored and marked, and the cursor is set to the end of its padding. -/
theorem decodeParamBody_took {i : Nat} (hi : i < 9) (hparam : i < 8 → ParamOk c i v)
    (hbearer : i = 8 → BearerOk c v.bearer) (hpos : x.rc.pos % 8 = 0) (hlen : ceil8 (body i v).length ≤ 255)
    (h : Holds ib x.rc.pos (body i v)) (hroom : x.rc.pos + 8 * ceil8 (body i v).length ≤ 8 * x.rc.cap) :
    (decodeParamBody c ib i (ceil8 (body i v).length) x).m = withParamBit i (copyParam i (presentSlots v) x.m) ∧
      (decodeParamBody c ib i (ceil8 (body i v).length) x).diag = x.diag := by
  obtain rfl | hi8 : i = 8 ∨ i < 8 := by omega
  · have hbody : body 8 v = bearer v.bearer := rfl
    have hmod := bearer_length_mod v.bearer
    rw [hbody] at hlen h hroom ⊢
    rw [decodeParamBody_bearer_holds (k := 0) (by omega) hlen hpos (hbearer rfl) (by unfold ceil8; omega) h hroom]
    exact ⟨rfl, rfl⟩
  · have hbody : body i v = param i v := if_neg (by omega)
    have hpad := ceil8_mul (param i v).length
    rw [hbody] at hlen h hroom ⊢
    have hsome := paramBody_some (c := c) (d := x.rc) hi8 (hparam hi8) h (by omega) x.m
    rw [decodeParamBody_store hi8 (ceil8_param_length i v) hsome, copyParam_presentSlots hi8]
    exact ⟨rfl, rfl⟩

/-- The TLV of a canonical slot is taken whole. -/
theorem paramRun_tlv {i : Nat} (hi : i < 9) (hparam : i < 8 → ParamOk c i v) (hbearer : i = 8 → BearerOk c v.bearer)
    (hpos : x.rc.pos % 8 = 0) (hlen : ceil8 (body i v).length ≤ 255) (h : Holds ib x.rc.pos (Wire.tlv i (body i v)))
    (hroom : x.rc.pos + (Wire.tlv i (body i v)).length ≤ 8 * x.rc.cap) :
    ∃ y, paramRun c ib x = paramRun c ib y ∧
      x.Took (Wire.tlv i (body i v)) (withParamBit i (copyParam i (presentSlots v) x.m)) y := by
  have hlength := tlv_length i (body i v)
  rw [hlength] at hroom
  simp only [Wire.tlv, List.append_assoc, holds_append, bits_length, pad, Nat.add_assoc, Nat.reduceAdd] at h
  obtain ⟨hid, hl, hbody, -⟩ := h
  rw [holds_bits, Nat.mod_eq_of_lt (by omega)] at hid hl
  have hrun := paramRun_step (c := c) (ib := ib) (x := x) (by omega)
  rw [hid, hl] at hrun
  obtain ⟨hm, hdiag⟩ := decodeParamBody_took (c := c) (x := { x with rc := { x.rc with pos := x.rc.pos + 16 } }) hi
    hparam hbearer (by simp only; omega) hlen hbody (by simp only; omega)
  refine ⟨_, hrun, ?_, hm, hdiag⟩
  rw [decodeParamBody_rc, ReadCursor.past, hlength]
  simp only [ReadCursor.mk.injEq, true_and]
  omega

/-! ### All parameters of a canonical record -/

/-- Slot `i` of `v` stored and marked, where its mask bit is set. -/
def takeParam (v m : CdmaPdu) (i : Nat) : CdmaPdu :=
  if v.parameterMask.getLsbD i then withParamBit i (copyParam i (presentSlots v) m) else m

/-- The TLVs of the present slots are taken one after the other, up to the end of the buffer. -/
theorem paramRun_tlvs {ids : List Nat} (hids : ∀ i ∈ ids, i < 9) (hv : RecordOk c v)
    (hcount : ∀ i, i < 9 → v.parameterMask.getLsbD i = true → ceil8 (body i v).length ≤ 255)
    (hpos : x.rc.pos % 8 = 0) (h : Holds ib x.rc.pos (ids.flatMap (paramTlv v)))
    (hend : x.rc.pos + (ids.flatMap (paramTlv v)).length = 8 * x.rc.cap) :
    (paramRun c ib x).m = ids.foldl (takeParam v) x.m ∧ (paramRun c ib x).diag = x.diag := by
  induction ids generalizing x with
  | nil =>
    rw [List.flatMap_nil, List.length_nil] at hend
    rw [paramRun_done (by omega)]
    exact ⟨rfl, rfl⟩
  | cons i ids ih =>
    obtain ⟨hi, hids⟩ := List.forall_mem_cons.1 hids
    rw [List.flatMap_cons, holds_append] at h
    rw [List.flatMap_cons, List.length_append] at hend
    rw [List.foldl_cons]
    by_cases hm : v.parameterMask.getLsbD i = true
    · have ht : paramTlv v i = Wire.tlv i (body i v) := if_pos hm
      have hs : takeParam v x.m i = withParamBit i (copyParam i (presentSlots v) x.m) := if_pos hm
      have hmod := paramTlv_length_mod v i
      rw [ht] at h hend hmod
      obtain ⟨y, hrun, htook⟩ := paramRun_tlv hi (fun h8 => hv.1 i h8 hm) (fun h8 => hv.2 (h8 ▸ hm)) hpos
        (hcount i hi hm) h.1 (by omega)
      obtain ⟨hym, hydiag⟩ := ih (x := y) hids (by rw [htook.rc]; simp only [ReadCursor.past]; omega)
        (by rw [htook.rc]; exact h.2) (by rw [htook.rc]; simp only [ReadCursor.past]; omega)
      rw [hrun, hym, hydiag, htook.m, htook.diag, hs]
      exact ⟨rfl, rfl⟩
    · have ht : paramTlv v i = [] := if_neg hm
      have hs : takeParam v x.m i = x.m := if_neg hm
      rw [ht] at h hend
      rw [hs]
      exact ih hids hpos h.2 (by simpa using hend)

end

/-! ### The record that is built -/

/-- The record with another mask. -/
def withParamMask (k : BitVec 9) (m : CdmaPdu) : CdmaPdu := { m with parameterMask := k }

theorem withParamMask_copyParam (k : BitVec 9) (i : Nat) (v m : CdmaPdu) :
    withParamMask k (copyParam i v m) = copyParam i v (withParamMask k m) := by
  unfold copyParam
  split <;> rfl

theorem withParamMask_foldl_takeParam (k : BitVec 9) (v : CdmaPdu) (l : List Nat) (m : CdmaPdu) :
    withParamMask k (l.foldl (takeParam v) m) =
      l.foldl (fun r i => if v.parameterMask.getLsbD i then copyParam i (presentSlots v) r else r)
        (withParamMask k m) := by
  induction l generalizing m with
  | nil => rfl
  | cons i l ih =>
    rw [List.foldl_cons, List.foldl_cons, ih, takeParam]
    split
    · rw [← withParamMask_copyParam]; rfl
    · rfl

theorem foldl_takeParam_getLsbD {v : CdmaPdu} {l : List Nat} (hl : ∀ i ∈ l, i < 9) (m : CdmaPdu) (j : Nat) :
    (l.foldl (takeParam v) m).parameterMask.getLsbD j =
      (m.parameterMask.getLsbD j || decide (j ∈ l) && v.parameterMask.getLsbD j) := by
  induction l generalizing m with
  | nil => simp
  | cons i l ih =>
    obtain ⟨hi, hl⟩ := List.forall_mem_cons.1 hl
    rw [List.foldl_cons, ih hl, takeParam]
    by_cases hj : i = j
    · subst hj
      split
      next hm => simp [withParamBit_getLsbD hi, copyParam_mask, hm]
      next hm => simp [hm]
    · split
      · simp [withParamBit_getLsbD hi, copyParam_mask, hj, Ne.symm hj]
      · simp [Ne.symm hj]

/-- The slots of a record stored one by one behind its format octet are the record of its present slots (R37). -/
theorem foldl_takeParam (v : CdmaPdu) :
    (List.range 9).foldl (takeParam v) { format := v.format } = presentRecord v := by
  have hmask : ((List.range 9).foldl (takeParam v) { format := v.format }).parameterMask = v.parameterMask := by
    refine BitVec.eq_of_getLsbD_eq fun j hj => ?_
    rw [foldl_takeParam_getLsbD fun i => List.mem_range.1]
    simp [hj]
  calc (List.range 9).foldl (takeParam v) { format := v.format }
      = withParamMask v.parameterMask ((List.range 9).foldl (takeParam v) { format := v.format }) := by
        rw [← hmask]; rfl
    _ = presentRecord v := withParamMask_foldl_takeParam v.parameterMask v (List.range 9) { format := v.format }

/-! ### The round trip -/

/-- Where the PDU of a canonical record fills the input, DECCDMA takes every octet of it. -/
theorem exec_deccdma_pdu {s : State} {v : CdmaPdu} (hv : RecordOk s.cfg v) (hformat : v.format.toNat ≤ 2)
    (hcount : ∀ i, i < 9 → v.parameterMask.getLsbD i = true → ceil8 (body i v).length ≤ 255)
    (h : Holds s.ibuf 0 (pdu v)) (hlen : (pdu v).length = 8 * s.ilen.toNat) (hcap : s.ilen.toNat ≤ s.cfg.ibufCap) :
    ∃ u, exec .deccdma s = .next u ∧ u.status = 0 ∧ u.diag = 0 ∧ u.msgC = presentRecord v := by
  rw [pdu_eq, holds_append, field_length] at h
  rw [pdu_eq, List.length_append, field_length] at hlen
  have hoctet : memRead s.ibuf 0 = v.format := (formatOctet_eq s.ibuf).symm.trans (holds_field.1 h.1).symm
  obtain ⟨hm, hdiag⟩ := paramRun_tlvs (x := .opened s.ilen.toNat v.format) (fun i => List.mem_range.1) hv hcount
    (Nat.mod_self 8) h.2 hlen
  have hdecoded : s.decoded = paramRun s.cfg s.ibuf (.opened s.ilen.toNat v.format) := by
    rw [State.decoded, hoctet]
  rw [← hdecoded] at hm hdiag
  exact ⟨_, exec_deccdma_ok (by omega) hcap (hoctet ▸ hformat), rfl, hdiag, hm.trans (foldl_takeParam v)⟩

/-- Where ENCCDMA ended OK, none of its checks failed and there was room. -/
theorem checks_of_exec_enccdma {s t : State} (h : exec .enccdma s = .next t) (hok : t.status = 0) :
    s.msgC.format.toNat ≤ 2 ∧ ¬ HasBodiless s.msgC ∧ Fits s.cfg s.msgC ∧ ¬ HasNoWidth s.msgC ∧
      Roomy s.cfg s.msgC := by
  have not_raised : ∀ k, k ≠ .ok → ¬ ∃ u, exec .enccdma s = .next u ∧ Raised .enccdma k { s with diag := 0 } u := by
    rintro k hk ⟨u, hu, hstatus, -⟩
    obtain rfl : t = u := Outcome.next.inj (h.symm.trans hu)
    exact hk (kindCode_eq_zero.1 (hstatus.symm.trans hok))
  have hfault := not_raised .fault (by decide)
  obtain ⟨hformat, hchecks⟩ := enccdmaRefuses s
  have hf : s.msgC.format.toNat ≤ 2 := Nat.not_lt.1 (mt hformat hfault)
  obtain ⟨hbodiless, hchecks⟩ := hchecks hf
  have hb : ¬ HasBodiless s.msgC := mt hbodiless hfault
  obtain ⟨hcapacity, hchecks⟩ := hchecks hb
  have hfit : Fits s.cfg s.msgC := not_not.1 (mt hcapacity hfault)
  obtain ⟨hwidth, hroom⟩ := hchecks hfit
  have hw : ¬ HasNoWidth s.msgC := mt hwidth (not_raised .unsupported (by decide))
  refine ⟨hf, hb, hfit, hw, not_not.1 fun hr => ?_⟩
  obtain ⟨u, hu, heq, -⟩ := hroom hw hr
  obtain rfl : t = u := Outcome.next.inj (h.symm.trans hu)
  have hoverflow : t.status = 2 := congrArg State.status heq
  rw [hok] at hoverflow
  exact absurd hoverflow (by decide)

/-- Settles O50: ENCCDMA left the PDU of the record in OBUF, and DECCDMA takes it slot by slot. -/
theorem cdmaRoundTrip : Obligations.CdmaRoundTrip := by
  intro s t hexec hok hv hcap hilen
  obtain ⟨hf, hb, hfit, hw, hroomy⟩ := checks_of_exec_enccdma hexec hok
  obtain ⟨m, hnext, hholds, -⟩ := enccdmaWrites s hf hb hfit hw hroomy
  obtain rfl := Outcome.next.inj (hexec.symm.trans hnext)
  obtain ⟨hcount, hroom⟩ := hroomy
  have hmod := pdu_length_mod s.msgC
  refine exec_deccdma_pdu hv hf hcount hholds ?_ hilen
  simp only [State.looped, BitVec.toNat_ofNat]
  rw [Nat.mod_eq_of_lt (by omega)]
  omega

end Sys2Proof.Machine
end

section
/-! PROOFS. Every operation ends with one status kind of R353 and with no DIAG bit but its own (R33, R350). -/

namespace Sys2Proof.Machine

open Host (Outcome)

/-! ### What an end is -/

/-- The values of DIAG that the operation `i` may leave: the decoder's bits 0 to 3 for DECCDMA, WIDTH for RDBITS and
WRBITS, no bit for the others (R33). -/
def OwnDiag (i : Instr) (d : Word) : Prop :=
  (i = .deccdma → d.toNat < 16) ∧ (i = .rdbits ∨ i = .wrbits → d = 0 ∨ d = 0x10) ∧
    (i ≠ .deccdma → i ≠ .rdbits → i ≠ .wrbits → d = 0)

theorem ownDiag_zero (i : Instr) : OwnDiag i 0 := ⟨fun _ => by decide, fun _ => .inl rfl, fun _ _ _ => rfl⟩

theorem ownDiag_rdbits_width : OwnDiag .rdbits 0x10 := ⟨by simp, fun _ => .inr rfl, by simp⟩

theorem ownDiag_wrbits_width : OwnDiag .wrbits 0x10 := ⟨by simp, fun _ => .inr rfl, by simp⟩

theorem ownDiag_deccdma {d : Word} (h : d.toNat < 16) : OwnDiag .deccdma d := ⟨fun _ => h, by simp, by simp⟩

/-- From `s` the operation `i` ends: STATUS holds the code of a kind, DIAG no bit but those of `i`. -/
def EndsOwn (i : Instr) (s : State) : Prop :=
  ∃ t k, exec i s = .next t ∧ t.status = kindCode k ∧ OwnDiag i t.diag

/-- An end that leaves DIAG as every operation's start has cleared it. -/
theorem EndsOwn.clear {i : Instr} {s t : State} (k : Kind) (h : exec i s = .next t) (hs : t.status = kindCode k)
    (hd : t.diag = 0) : EndsOwn i s :=
  ⟨t, k, h, hs, hd ▸ ownDiag_zero i⟩

/-- An operation of the shape `settle`: each of its three ends finishes with a kind, and none sets a bit of DIAG. -/
theorem EndsOwn.of_settle {α : Type} {i : Instr} {op : Running} {refused : Bool} {r : Except Kind α}
    {out : α → State} {s : State} (h : exec i s = .next (settle op refused r out (start s)))
    (ho : ∀ a, (out a).diag = 0) : EndsOwn i s := by
  unfold settle at h
  split at h
  · exact .clear .fault h rfl (raise_starts op .fault s)
  · split at h
    next k => exact .clear k h rfl (raise_starts op k s)
    next a => exact .clear .ok h rfl (ho a)

/-! ### The bit-buffer operations -/

theorem rcinit_ends (s : State) : EndsOwn .rcinit s := by
  have h := rcinitOpens s
  split at h
  · exact .clear .fault h rfl rfl
  · exact .clear .ok h rfl rfl

theorem wcinit_ends (s : State) : EndsOwn .wcinit s := by
  obtain h | h := Nat.lt_or_ge s.cfg.obufCap s.arg0.toNat
  · exact .clear .fault (exec_wcinit_tooLarge h) rfl rfl
  · exact .clear .ok (exec_wcinit_fits h) rfl rfl

/-- Only the width check sets a bit of DIAG (R142). -/
theorem rdbits_ends (s : State) : EndsOwn .rdbits s := by
  cases ho : s.rc.isOpen with
  | false => exact .clear .fault (exec_reader_closed (by decide) ho) rfl rfl
  | true =>
    by_cases hn : s.arg0.toNat < 1 ∨ 32 < s.arg0.toNat
    · exact ⟨_, .fault, exec_rdbits_width ho hn, rfl, ownDiag_rdbits_width⟩
    · have hw : 1 ≤ s.arg0.toNat ∧ s.arg0.toNat ≤ 32 := by omega
      obtain h | h := Nat.lt_or_ge (8 * s.rc.cap) (s.rc.pos + s.arg0.toNat)
      · exact .clear .overflow (exec_rdbits_overflow ho hw h) rfl rfl
      · exact .clear .ok (exec_rdbits_fits ho hw h) rfl rfl

/-- Only the width check sets a bit of DIAG (R143). -/
theorem wrbits_ends (s : State) : EndsOwn .wrbits s := by
  cases ho : s.wc.isOpen with
  | false => exact .clear .fault (exec_writer_closed (by decide) ho) rfl rfl
  | true =>
    by_cases hn : s.arg0.toNat < 1 ∨ 32 < s.arg0.toNat
    · exact ⟨_, .fault, exec_wrbits_width ho hn, rfl, ownDiag_wrbits_width⟩
    · have hw : 1 ≤ s.arg0.toNat ∧ s.arg0.toNat ≤ 32 := by omega
      obtain h | h := Nat.lt_or_ge (8 * s.wc.cap) (s.wc.pos + s.arg0.toNat)
      · exact .clear .overflow (exec_wrbits_overflow ho hw h) rfl rfl
      · exact .clear .ok (exec_wrbits_fits ho hw h) rfl rfl

theorem skipb_ends (s : State) : EndsOwn .skipb s := by
  cases h : s.rc.isOpen with
  | false => exact .clear .fault (exec_reader_closed (by decide) h) rfl rfl
  | true => exact .clear .ok (exec_skipb_open h) rfl rfl

theorem flush_ends (s : State) : EndsOwn .flush s := by
  cases h : s.wc.isOpen with
  | false => exact .clear .fault (exec_writer_closed (by decide) h) rfl rfl
  | true => exact .clear .ok (exec_flush_open h) rfl rfl

theorem rcseek_ends (s : State) : EndsOwn .rcseek s := by
  cases h : s.rc.isOpen with
  | false => exact .clear .fault (exec_reader_closed (by decide) h) rfl rfl
  | true => exact .clear .ok (exec_rcseek_open h) rfl rfl

theorem wcpatch_ends (s : State) : EndsOwn .wcpatch s := by
  cases ho : s.wc.isOpen with
  | false => exact .clear .fault (exec_writer_closed (by decide) ho) rfl rfl
  | true =>
    obtain h | h := Nat.lt_or_ge s.wc.pos (8 * s.arg0.toNat + 8)
    · exact .clear .fault (exec_wcpatch_ahead ho h) rfl rfl
    · exact .clear .ok (exec_wcpatch_behind ho h) rfl rfl

/-! ### The CDMA operations -/

/-- The record is refused with the kind of its check, or its emission has room and ends OK, or it overflows. -/
theorem enccdma_ends (s : State) : EndsOwn .enccdma s := by
  cases hc : checkRecord s.cfg s.msgC with
  | error k => exact .clear k (exec_enccdma_refused hc) rfl rfl
  | ok _ =>
    by_cases hw : ∃ w, emitRecord s.msgC s.opened = .ok w ∧ w.wc.ovf = false
    · obtain ⟨w, hw, hovf⟩ := hw
      exact .clear .ok (exec_enccdma_ok hc hw hovf) rfl rfl
    · have hfull : ∀ w, emitRecord s.msgC s.opened = .ok w → w.wc.ovf = true := fun w he =>
        Bool.eq_true_of_not_eq_false fun hovf => hw ⟨w, he, hovf⟩
      exact .clear .overflow (exec_enccdma_overflow hc hfull) rfl rfl

/-- The parameters decoded after the format octet set the decoder's own bits alone (R33, R240). -/
theorem deccdma_ends (s : State) : EndsOwn .deccdma s := by
  by_cases hr : ilenTooLong s = true ∨ s.ilen = 0
  · exact .clear .fault (execDeccdma_refused hr) rfl rfl
  · have hne : s.ilen.toNat ≠ 0 := fun h => hr (.inr (BitVec.eq_of_toNat_eq h))
    cases hd : decCdma s.cfg s.ibuf s.ilen.toNat with
    | error k => exact .clear k (execDeccdma_error hr hd) rfl rfl
    | ok x =>
      obtain ⟨-, -, hdiag⟩ := decCdma_ok hne hd
      exact ⟨_, .ok, execDeccdma_ok hr hd, rfl, ownDiag_deccdma hdiag⟩

/-! ### Every operation -/

/-- The operations of the command format (R90, R92), each by how it ends. -/
theorem endsOwn_of_cmd {i : Instr} (hi : formatOf i = .cmd) (s : State) : EndsOwn i s := by
  cases i with
  | rcinit => exact rcinit_ends s
  | wcinit => exact wcinit_ends s
  | rdbits => exact rdbits_ends s
  | wrbits => exact wrbits_ends s
  | skipb => exact skipb_ends s
  | flush => exact flush_ends s
  | rcseek => exact rcseek_ends s
  | wcpatch => exact wcpatch_ends s
  | pack7 => exact .of_settle (execPack7_eq s) fun _ => rfl
  | unpack7 => exact .of_settle (execUnpack7_eq s) fun _ => rfl
  | encaddr => exact .of_settle (execEncaddr_eq s) fun _ => rfl
  | decaddr => exact .of_settle (execDecaddr_eq s) fun _ => rfl
  | encts => exact .of_settle (execEncts_eq s) fun _ => rfl
  | dects => exact .of_settle (execDects_eq s) fun _ => rfl
  | encgsm => exact .of_settle (execEncgsm_eq s) fun _ => rfl
  | decgsm => exact .of_settle (execDecgsm_eq s) fun _ => rfl
  | enccdma => exact enccdma_ends s
  | deccdma => exact deccdma_ends s
  | illegal op => exact .clear .fault (exec_illegal op s) rfl rfl
  | _ => cases hi

/-- Settles O9: the operation's end has a kind, whose code is below 4, and the bits of its own. -/
theorem everyOperationEnds : Obligations.EveryOperationEnds := by
  intro i s hi
  obtain ⟨t, k, hexec, hstatus, hdiag⟩ := endsOwn_of_cmd hi s
  exact ⟨t, hexec, hstatus ▸ kindCode_lt k, hdiag⟩

end Sys2Proof.Machine
end

section
/-! PROOFS. The invariant at reset (10_state.md R39), the start of the induction that `inv_step` carries on. -/

namespace Sys2Proof.Machine

/-- The arrays of MSG.G stand at reset with the capacities of the default parameters (R9, R30; log 2). -/
theorem reset_msgG_lengths :
    State.reset.msgG.addr.length = State.reset.cfg.addrStrCap ∧
    State.reset.msgG.ts.length = State.reset.cfg.tsStrCap ∧
    State.reset.msgG.data.length = State.reset.cfg.gsmDataCap :=
  ⟨List.length_replicate, List.length_replicate, List.length_replicate⟩

/-- Settles O2: the default parameters are admissible (R9), both buffers hold no octet but 0x00 (log 1), both cursors
stand at bit 0 of a capacity of 0 (log 3), and the arrays of MSG.G are of their capacities. -/
theorem resetInvariant : Obligations.ResetInvariant := by
  obtain ⟨hibuf, hobuf⟩ := reset_wf
  obtain ⟨haddr, hts, hdata⟩ := reset_msgG_lengths
  exact
    { params := defaultConfig_wf
      ibufForm := hibuf
      ibufBound := (memBelow_iff _ _).2 (List.forall_mem_nil _)
      obufForm := hobuf
      obufBound := (memBelow_iff _ _).2 (List.forall_mem_nil _)
      rcCap := Nat.zero_le _
      rcPos := Nat.zero_le _
      wcCap := Nat.zero_le _
      wcPos := Nat.zero_le _
      statusKind := kindCode_lt .ok
      diagBits := by decide
      addrArray := haddr
      tsArray := hts
      dataArray := hdata }

end Sys2Proof.Machine
end
